-- ==== Sys2Proof/Word.lean ====
section
/-! DEFINITION. The word types of the block: a register byte, a register address, a 64-bit frame. -/

namespace Sys2Proof

/-- One register or one operand: 8 bits (00_scope.md R8). -/
abbrev Byte := BitVec 8

/-- A register address: 8 bits (00_scope.md R8, 20_memory.md R60). -/
abbrev Addr := BitVec 8

/-- A command or response frame: 64 bits, `c0` its least significant byte (30_encoding.md R100, R105). -/
abbrev Frame := BitVec 64

end Sys2Proof
end

