-- ==== Sys2Proof/Syntax.lean ====
section
/-! DEFINITION. The operations of the block (30_encoding.md R101) and the values they take. -/

namespace Sys2Proof

/-- The seven calendar fields in frame order (10_state.md R46, 30_encoding.md R101). They are natural numbers:
the operations as functions accept any (40_timecodec.md R139, R145); `CalendarTime.valid` is R137's test. -/
structure CalendarTime where
  second : Nat
  minute : Nat
  hour : Nat
  weekday : Nat
  mday : Nat
  month : Nat
  year : Nat
deriving DecidableEq, Repr, Inhabited

/-- The 7-byte register image of the time, in address order (30_encoding.md R91). -/
structure TimeImage where
  sec : Byte
  min : Byte
  hour : Byte
  wday : Byte
  mday : Byte
  month : Byte
  year : Byte
deriving DecidableEq, Repr, Inhabited

/-- An alarm: minute, hour, day of the month with 0 for any day, and whether it is enabled (10_state.md R47). -/
structure AlarmSpec where
  minute : Nat
  hour : Nat
  day : Nat
  enabled : Bool
deriving DecidableEq, Repr, Inhabited

/-- The fourteen operations, one constructor per row of spec/opcode_table.json (30_encoding.md R101). -/
inductive Instr where
  | bcd2bin (b : Byte)
  | bin2bcd (v : Nat)
  | decode (r : TimeImage)
  | encode (t : CalendarTime)
  | btst (b m : Byte)
  | bset (b m : Byte)
  | bclr (b m : Byte)
  | getTime
  | setTime (t : CalendarTime)
  | getAlarm
  | setAlarm (a : AlarmSpec)
  | alarmEn (enabled : Bool)
  | init
  | shutdown
deriving DecidableEq, Repr

end Sys2Proof
end

