-- ==== Sys2Proof/Decode.lean ====
section
/-! DEFINITION. The command frame CMD64: its bytes, the decoder, and the encoder (30_encoding.md R100 to R104). -/

namespace Sys2Proof

/-- Byte `k` of a frame, `c0` the least significant (R100). -/
def frameByte (f : Frame) (k : Nat) : Byte := f.extractLsb' (8 * k) 8

/-- The eight bytes `c0 .. c7` of a frame. -/
def frameBytes (f : Frame) : List Byte :=
  [frameByte f 0, frameByte f 1, frameByte f 2, frameByte f 3, frameByte f 4, frameByte f 5, frameByte f 6,
    frameByte f 7]

/-- The frame whose bytes are `c0 .. c7`. -/
def frameOf (c0 c1 c2 c3 c4 c5 c6 c7 : Byte) : Frame :=
  c7 ++ (c6 ++ (c5 ++ (c4 ++ (c3 ++ (c2 ++ (c1 ++ c0))))))

/-- Why eight bytes are no operation. -/
inductive DecodeError where
  /-- `c0` is none of the fourteen opcodes: an unrecognized extended operation (R104). -/
  | unrecognizedOperation (opcode : Byte)
  /-- The bytes are not exactly one 64-bit frame (R104: every frame is 64 bits). -/
  | notOneFrame
deriving DecidableEq, Repr

/-- A boolean operand is false when the byte is 0 and true for every other byte (R102). -/
def boolOperand (b : Byte) : Bool := b != 0#8

/-- The byte of a boolean: 0 or 1 (R102). -/
def boolByte (b : Bool) : Byte := if b then 1#8 else 0#8

/-- A numeric operand byte, taken as a natural number (R100). -/
def calendarOperand (p0 p1 p2 p3 p4 p5 p6 : Byte) : CalendarTime :=
  { second := p0.toNat, minute := p1.toNat, hour := p2.toNat, weekday := p3.toNat, mday := p4.toNat,
    month := p5.toNat, year := p6.toNat }

/-- The opcode of each operation (R101). -/
def Instr.opcode : Instr → Byte
  | .bcd2bin _ => 0x01#8
  | .bin2bcd _ => 0x02#8
  | .decode _ => 0x03#8
  | .encode _ => 0x04#8
  | .btst _ _ => 0x08#8
  | .bset _ _ => 0x09#8
  | .bclr _ _ => 0x0A#8
  | .getTime => 0x10#8
  | .setTime _ => 0x11#8
  | .getAlarm => 0x12#8
  | .setAlarm _ => 0x13#8
  | .alarmEn _ => 0x14#8
  | .init => 0x15#8
  | .shutdown => 0x16#8

/-- The operation whose opcode is `op`, with operands `p0 .. p6`; operand bytes it does not use are ignored
(R101, R103, R104). -/
def decodeOperation (op p0 p1 p2 p3 p4 p5 p6 : Byte) : Except DecodeError Instr :=
  match op.toNat with
  | 0x01 => .ok (.bcd2bin p0)
  | 0x02 => .ok (.bin2bcd p0.toNat)
  | 0x03 => .ok (.decode ⟨p0, p1, p2, p3, p4, p5, p6⟩)
  | 0x04 => .ok (.encode (calendarOperand p0 p1 p2 p3 p4 p5 p6))
  | 0x08 => .ok (.btst p0 p1)
  | 0x09 => .ok (.bset p0 p1)
  | 0x0A => .ok (.bclr p0 p1)
  | 0x10 => .ok .getTime
  | 0x11 => .ok (.setTime (calendarOperand p0 p1 p2 p3 p4 p5 p6))
  | 0x12 => .ok .getAlarm
  | 0x13 => .ok (.setAlarm ⟨p0.toNat, p1.toNat, p2.toNat, boolOperand p3⟩)
  | 0x14 => .ok (.alarmEn (boolOperand p0))
  | 0x15 => .ok .init
  | 0x16 => .ok .shutdown
  | _ => .error (.unrecognizedOperation op)

/-- Decoding of any bytes, `c0` first (R104). -/
def decodeBytes : List Byte → Except DecodeError Instr
  | [c0, c1, c2, c3, c4, c5, c6, c7] => decodeOperation c0 c1 c2 c3 c4 c5 c6 c7
  | _ => .error .notOneFrame

/-- Decoding of a 64-bit frame (R104). -/
def decodeFrame (f : Frame) : Except DecodeError Instr := decodeBytes (frameBytes f)

/-- The operand byte of a number below 256 (R100). -/
def numberByte (n : Nat) : Byte := BitVec.ofNat 8 n

/-- The frame of an operation: opcode in `c0`, operands in frame order, unused bytes 0 (R100, R101). -/
def encodeFrame (i : Instr) : Frame :=
  match i with
  | .bcd2bin b => frameOf i.opcode b 0 0 0 0 0 0
  | .bin2bcd v => frameOf i.opcode (numberByte v) 0 0 0 0 0 0
  | .decode r => frameOf i.opcode r.sec r.min r.hour r.wday r.mday r.month r.year
  | .encode t => calendarFrame i.opcode t
  | .btst b m => frameOf i.opcode b m 0 0 0 0 0
  | .bset b m => frameOf i.opcode b m 0 0 0 0 0
  | .bclr b m => frameOf i.opcode b m 0 0 0 0 0
  | .getTime => frameOf i.opcode 0 0 0 0 0 0 0
  | .setTime t => calendarFrame i.opcode t
  | .getAlarm => frameOf i.opcode 0 0 0 0 0 0 0
  | .setAlarm a =>
    frameOf i.opcode (numberByte a.minute) (numberByte a.hour) (numberByte a.day) (boolByte a.enabled) 0 0 0
  | .alarmEn e => frameOf i.opcode (boolByte e) 0 0 0 0 0 0
  | .init => frameOf i.opcode 0 0 0 0 0 0 0
  | .shutdown => frameOf i.opcode 0 0 0 0 0 0 0
where
  /-- The seven calendar operands in frame order. -/
  calendarFrame (op : Byte) (t : CalendarTime) : Frame :=
    frameOf op (numberByte t.second) (numberByte t.minute) (numberByte t.hour) (numberByte t.weekday)
      (numberByte t.mday) (numberByte t.month) (numberByte t.year)

/-- The operation the decoder reads from a table row's bits: `w` with every bit from `nbits` up 0, as one frame
(bit 0 of `w` is bit 0 of `c0`). -/
def decodeTableWord (nbits w : Nat) : Option Instr :=
  match decodeFrame (BitVec.ofNat 64 (w % 2 ^ nbits)) with
  | .ok i => some i
  | .error _ => none

end Sys2Proof
end

