-- ==== Sys2Proof/Config.lean ====
section
/-! DEFINITION. What one device fixes (00_scope.md R7), what the environment may do, and the free values: the
opaque constants below have no body, so nothing can be proved of a value of theirs. -/

namespace Sys2Proof

/-- How the Peripheral changes the time registers (00_scope.md R7, 60_exceptions.md R272, R273). -/
inductive TimeAdvance where
  | draw
  | calsucc
deriving DecidableEq, Repr, Inhabited

/-- The thirteen named addresses of the register map (20_memory.md R61). -/
def Addr.isNamed (a : Addr) : Bool :=
  (0x10#8 ≤ a && a ≤ 0x16#8) || (0x18#8 ≤ a && a ≤ 0x1A#8) || (0x1D#8 ≤ a && a ≤ 0x1F#8)

/-- The OPEN parameters of R7, each fixed for the life of one device. -/
structure Params where
  /-- HAS_IRQ: the device has a usable interrupt line. -/
  hasIrq : Bool
  /-- RSV0_ADDR and RSV1_ADDR: the two reserved registers INIT writes. -/
  rsv0Addr : Addr
  rsv1Addr : Addr
  /-- RSV0_VAL and RSV1_VAL: the values INIT writes there. -/
  rsv0Val : Byte
  rsv1Val : Byte
  /-- FSEL_DEFAULT: the output frequency INIT selects. -/
  fselDefault : BitVec 2
  /-- TIME_ADVANCE. -/
  timeAdvance : TimeAdvance
deriving DecidableEq, Repr, Inhabited

/-- R7's constraint: the two reserved addresses differ, and neither is a named address. -/
def Params.wf (p : Params) : Bool :=
  p.rsv0Addr != p.rsv1Addr && !p.rsv0Addr.isNamed && !p.rsv1Addr.isNamed

/-- A step of the environment that may fall between two transactions (20_memory.md R78): a Peripheral step
(60_exceptions.md R270 to R277), or the IrqHandler's (R254). The arguments are what the spec lets be drawn. -/
inductive EnvStep where
  /-- P-OSC, with the P-TIME draw that may accompany it (R271). -/
  | pOsc (scramble : Option TimeImage)
  /-- P-TIME; `image` is the draw, used where the rule draws (R272, R273). -/
  | pTime (image : TimeImage)
  /-- P-ALARM; `dayTerm` is the day term of the match in week-day mode (R274, R275). -/
  | pAlarm (dayTerm : Bool)
  /-- P-TIMER (R276). -/
  | pTimer
  /-- P-UPDATE (R277). -/
  | pUpdate
  /-- IRQ (R254). -/
  | irq
deriving DecidableEq, Repr

/-- The outcome of one port transaction (20_memory.md R68, R69). A failed write stores those of its bytes whose
entry in `stored` is true, first byte first; a byte without an entry keeps its old value. -/
inductive TxOutcome where
  | ok
  | fails (stored : List Bool)
deriving DecidableEq, Repr, Inhabited

/-- One point of choice inside an operation: the steps other agents take just before the transaction, its outcome,
and, where the point is SHUTDOWN's, whether a scheduled task is awaited or cancelled (10_state.md R50). -/
structure Choice where
  steps : List EnvStep
  outcome : TxOutcome
  awaitTask : Bool
deriving DecidableEq, Repr, Inhabited

/-- A turn of an agent other than the Foreground, between operations. -/
inductive Turn where
  /-- No agent moves. -/
  | idle
  /-- A Peripheral step or the IRQ step. -/
  | env (e : EnvStep)
  /-- DRAIN, one pass of the deferred task (60_exceptions.md R255). -/
  | drain
deriving DecidableEq, Repr, Inhabited

/-- One line of the schedule (30_encoding.md R109): a command frame the Foreground issues, an operation it calls with
any natural numbers as operands (R100, 40_timecodec.md R145) or waits to have run (log entry 7), or a turn. -/
inductive Input where
  | issue (frame : Frame)
  | call (i : Instr)
  | turn (t : Turn)
deriving DecidableEq, Repr

/-- FREE VALUE: the choices beyond those a state lists, one for each draw (log entry 5). -/
opaque Config.freeChoice : Nat → Choice

/-- FREE VALUE: the turns beyond those a state lists, one for each draw (log entry 4). -/
opaque Config.freeTurn : Nat → Turn

/-- FREE VALUE: the parameters the platform fixes (log entry 3). -/
opaque Config.platform : Params

/-- Two addresses that meet R7's constraint. They stand only for a `Config.platform` that breaks it, which no device
does. -/
def Config.admissible (p : Params) : Params :=
  if p.wf then p else { p with rsv0Addr := 0x17#8, rsv1Addr := 0x1C#8 }

/-- The parameters of the device at reset: the platform's, under R7's constraint; TIME_ADVANCE is `draw`, R7's
default. -/
def Config.params : Params := { Config.admissible Config.platform with timeAdvance := .draw }

end Sys2Proof
end

