-- ==== Sys2Proof/Machine/State.lean ====
section
/-! DEFINITION. The state of the block (10_state.md), the reasons a step can stop, and the state after reset. -/

namespace Sys2Proof.Machine

/-- The sequencer state, the block's program counter (10_state.md R40). -/
inductive PState where
  | unarmed
  | armed
  | handling
  | disarmed
deriving DecidableEq, Repr

/-- The holder of the device's lock (10_state.md R42). -/
inductive Lock where
  | free
  | foreground
  | deferred
deriving DecidableEq, Repr

/-- Where a pass failed (10_state.md R45). -/
inductive PassStage where
  | read
  | write
deriving DecidableEq, Repr

/-- An element of the event log (10_state.md R45). -/
inductive Event where
  | periodicTick
  | alarmFired
  | updateTick
  | clockUnreliable
  | passError (stage : PassStage)
deriving DecidableEq, Repr

/-- Read or write. -/
inductive Direction where
  | read
  | write
deriving DecidableEq, Repr

/-- Which transaction an error names (60_exceptions.md R241). -/
structure TxInfo where
  addr : Addr
  len : Nat
  dir : Direction
deriving DecidableEq, Repr

/-- One transaction of the trace: address, length, direction, data and outcome (20_memory.md R85). `data` is what a
read returned or a write offered; a failed read has none. -/
structure Transaction where
  info : TxInfo
  data : List Byte
  succeeded : Bool
deriving DecidableEq, Repr

/-- The four error kinds (60_exceptions.md R240). -/
inductive ErrorKind where
  | transportError (info : TxInfo)
  | invalidTimeValue
  | alarmUnsupported
  | unsupportedCommand
deriving DecidableEq, Repr

/-- The values of a successful operation, by the result column of 30_encoding.md R101. -/
inductive Value where
  | none
  | number (n : Nat)
  | byte (b : Byte)
  | bool (b : Bool)
  | time (t : CalendarTime)
  | image (r : TimeImage)
  | alarm (a : AlarmSpec) (pending : Bool)
deriving DecidableEq, Repr

/-- What an operation returns: `OK(values)` or one error kind (00_scope.md R11). -/
inductive Result where
  | ok (v : Value)
  | error (e : ErrorKind)
deriving DecidableEq, Repr

/-- The Peripheral's registers: (address, byte) pairs in canonical form (`Memory.wf`). -/
abbrev Memory := List Host.Cell

/-- What an address that is not listed reads as. DESIGN CHOICE, unsafe: the spec leaves every register unspecified at
reset (10_state.md R49); log entry 1. -/
def blankByte : Byte := 0x00#8

/-- Why the machine could stop with a fault: no reason exists. Every error of the spec is a result in a next state
(60_exceptions.md R240), and every address exists (20_memory.md R60, R70). Nobody raises a fault; safe. Log entry 17. -/
inductive Fault where
deriving DecidableEq, Repr

/-- Why a step has no meaning (00_scope.md R12). -/
inductive Refusal where
  /-- No meaning is modelled for the instruction. Raised by a refused arm of `exec` only (none is left). Safe. -/
  | notModelled (mnemonic : String)
  /-- GETTIME, SETTIME, GETALARM, SETALARM or ALARMEN before INIT has succeeded (43_device.md R210, U13). Raised by
  those five; the spec has no step for it. Safe. -/
  | notInitialised
  /-- INIT after it has succeeded (R210, U13). Raised by INIT; the spec has no step for it. Safe. -/
  | alreadyInitialised
  /-- Any operation but a pure one, or an unknown frame, after SHUTDOWN (R210, U13). Raised by the seven device
  operations and by the decoder; the spec has no step for it. Safe. -/
  | deviceDestroyed
deriving DecidableEq, Repr

/-- The state: the Peripheral's side and the core's (10_state.md R20), the device's parameters (00_scope.md R7), and
the model's own fields, which carry the schedule and what an operation returned. -/
structure State where
  /-- The Peripheral's registers, all 256 addresses (20_memory.md R60, R61). -/
  regs : Memory
  /-- The Control cache (10_state.md R38). -/
  cache : Byte
  /-- ShutdownFlag (R39). -/
  shutdown : Bool
  /-- The sequencer state (R40). -/
  pstate : PState
  /-- The holder of the lock (R42). -/
  lock : Lock
  /-- Teardown has completed (R43). -/
  destroyed : Bool
  /-- The event log, oldest first (R45). -/
  events : List Event
  /-- The trace of transactions, oldest first (20_memory.md R85). -/
  trace : List Transaction
  /-- R48's `clean`: INIT has succeeded and no Control write has failed since. -/
  clean : Bool
  /-- R48's other condition: INIT zeroed Control, or a Control write has succeeded since INIT. -/
  synced : Bool
  /-- The device's parameters (00_scope.md R7). No step changes them. -/
  params : Params
  /-- The MODEL's own: what the last finished operation returned (00_scope.md R11); log entry 14. -/
  result : Option Result
  /-- The MODEL's own: the commands and turns to come, oldest first (30_encoding.md R109); log entry 4. -/
  inputs : List Input
  /-- The MODEL's own: the choices of the transactions to come; log entry 5. -/
  choices : List Choice
  /-- The MODEL's own: how many free values have been drawn; log entry 5. -/
  drawCount : Nat
deriving DecidableEq, Repr

/-- The block right after reset (10_state.md R49, 70_reset_and_hazards.md R301). `regs` and `cache` are
DESIGN CHOICES (log entries 1, 2), `drawCount` is one (log entry 5); the rest is the spec's. -/
def State.reset : State :=
  { regs := []
    cache := 0x00#8
    shutdown := false
    pstate := .unarmed
    lock := .free
    destroyed := false
    events := []
    trace := []
    clean := false
    synced := false
    params := Config.params
    result := none
    inputs := []
    choices := []
    drawCount := 0 }

end Sys2Proof.Machine
end

