-- ==== Sys2Proof/Machine/Flags.lean ====
section
/-! DEFINITION. The named bits of Extension, Flag and Control, the bit accessors, and the level of the interrupt line
(30_encoding.md R93, 41_statusregs.md, 60_exceptions.md R251). -/

namespace Sys2Proof.Machine

/-! Flag (10_state.md R34). -/
def maskVLF : Byte := 0x02#8
def maskAF : Byte := 0x08#8
def maskTF : Byte := 0x10#8
def maskUF : Byte := 0x20#8
/-- Any of VLF, AF, TF, UF: the flags that make INIT zero (43_device.md R213). -/
def maskAnyFlag : Byte := 0x3A#8

/-! Extension (10_state.md R33). -/
def maskTSEL : Byte := 0x07#8
def maskWADA : Byte := 0x08#8
def maskTE : Byte := 0x10#8
def maskUSEL : Byte := 0x20#8
def maskFSEL : Byte := 0xC0#8
def shiftFSEL : Nat := 6

/-! Control (10_state.md R35). -/
def maskControlReserved : Byte := 0x03#8
def maskTSTP : Byte := 0x04#8
def maskAIE : Byte := 0x08#8
def maskTIE : Byte := 0x10#8
def maskUIE : Byte := 0x20#8
def maskSTOP : Byte := 0x40#8
def maskTEST : Byte := 0x80#8

/-- WADA_MDAY: the value of WADA that selects day-of-month mode, 1 (00_scope.md R7); log entry 21. -/
def wadaMday : Bool := true

/-- BTST (41_statusregs.md R162): some bit of the mask is set. -/
def btst (b m : Byte) : Bool := (b &&& m) != 0#8

/-- BSET (R163). -/
def bset (b m : Byte) : Byte := b ||| m

/-- BCLR (R164). -/
def bclr (b m : Byte) : Byte := b &&& ~~~m

/-- The bits of mask `m` set or cleared: how a named bit takes a value (R163, R164). -/
def bput (b m : Byte) (v : Bool) : Byte := if v then bset b m else bclr b m

/-- A multi-bit field written: `(b & ~m) | ((v << s) & m)` (R165). -/
def writeField (b m : Byte) (shift v : Nat) : Byte := (b &&& ~~~m) ||| ((BitVec.ofNat 8 v <<< shift) &&& m)

/-- A multi-bit field read: `(b & m) >> s` (R165). -/
def readField (b m : Byte) (shift : Nat) : Nat := ((b &&& m) >>> shift).toNat

/-- FlagState, the decode of one Flag byte inside a pass (R167). -/
structure FlagState where
  oscillationStop : Bool
  alarmFired : Bool
  timerFired : Bool
  updateFired : Bool
deriving DecidableEq, Repr

/-- The decode of a Flag byte (R167). -/
def flagState (f : Byte) : FlagState :=
  { oscillationStop := btst f maskVLF, alarmFired := btst f maskAF, timerFired := btst f maskTF,
    updateFired := btst f maskUF }

/-- ControlState, the decode of the cache byte (R168). -/
structure ControlState where
  alarmInterruptEnable : Bool
  timerInterruptEnable : Bool
  updateInterruptEnable : Bool
  stop : Bool
  test : Bool
  timerStopFlag : Bool
deriving DecidableEq, Repr

/-- The decode of a Control byte (R168). -/
def controlState (c : Byte) : ControlState :=
  { alarmInterruptEnable := btst c maskAIE, timerInterruptEnable := btst c maskTIE,
    updateInterruptEnable := btst c maskUIE, stop := btst c maskSTOP, test := btst c maskTEST,
    timerStopFlag := btst c maskTSTP }

/-- The level of the interrupt line from the Flag and Control registers: AF and AIE, or TF and TIE, or UF and UIE
(10_state.md R37, 60_exceptions.md R251). -/
def irqLevel (flag control : Byte) : Bool :=
  (btst flag maskAF && btst control maskAIE) || (btst flag maskTF && btst control maskTIE)
    || (btst flag maskUF && btst control maskUIE)

/-- The Extension byte INIT writes: TE cleared, FSEL replaced (43_device.md R213, 41_statusregs.md R165). -/
def initExtension (ext : Byte) (fsel : BitVec 2) : Byte :=
  writeField (bclr ext maskTE) maskFSEL shiftFSEL fsel.toNat

/-- The Control value INIT caches: TEST and the two reserved bits cleared (R213). -/
def initControl (ctrl : Byte) : Byte := bclr ctrl (maskTEST ||| maskControlReserved)

/-- The Flag byte a pass writes back: TF, AF and UF cleared where they were set (60_exceptions.md R255). -/
def drainedFlag (f : Byte) : Byte :=
  let g := if (flagState f).timerFired then bclr f maskTF else f
  let g := if (flagState f).alarmFired then bclr g maskAF else g
  if (flagState f).updateFired then bclr g maskUF else g

/-- The events of a pass that read Flag byte `f`, in R255's order. -/
def drainedEvents (f : Byte) : List Event :=
  (if (flagState f).oscillationStop then [.clockUnreliable] else [])
    ++ (if (flagState f).timerFired then [.periodicTick] else [])
    ++ (if (flagState f).alarmFired then [.alarmFired] else [])
    ++ (if (flagState f).updateFired then [.updateTick] else [])

end Sys2Proof.Machine
end

