-- ==== Sys2Proof/Machine/Operands.lean ====
section
/-! DEFINITION. The operand forms: BCD bytes, the masked fields of the time and alarm images, the calendar rules, and
the response frame (30_encoding.md R90 to R92, R105, R107; 40_timecodec.md; 42_alarm.md R181 to R183). -/

namespace Sys2Proof.Machine

/-- BCD2BIN: `10 * b[7:4] + b[3:0]`, for every byte (40_timecodec.md R131). -/
def bcd2bin (b : Byte) : Nat := 10 * (b.extractLsb' 4 4).toNat + (b.extractLsb' 0 4).toNat

/-- BIN2BCD: the number mod 100, tens in the high nibble (R132). -/
def bin2bcd (v : Nat) : Byte :=
  let w := v % 100
  BitVec.ofNat 8 ((w / 10) <<< 4 ||| w % 10)

/-! The field masks of R133, R91. -/
def maskSec : Byte := 0x7F#8
def maskMin : Byte := 0x7F#8
def maskHour : Byte := 0x3F#8
def maskWday : Byte := 0x7F#8
def maskMday : Byte := 0x3F#8
def maskMonth : Byte := 0x1F#8

/-- PIVOT (00_scope.md R7); log entry 21. -/
def pivot : Nat := 70

/-- The full year of a two-digit year (R134). -/
def fullYear (y : Nat) : Nat := if y < pivot then 2000 + y else 1900 + y

/-- Every multiple of 4 is a leap year (R135). -/
def leap (y : Nat) : Bool := y % 4 == 0

/-- The lengths of the months, January first (R136). -/
def daysInMonth (month y : Nat) : Nat :=
  match month with
  | 1 => 31
  | 2 => if leap y then 29 else 28
  | 3 => 31
  | 4 => 30
  | 5 => 31
  | 6 => 30
  | 7 => 31
  | 8 => 31
  | 9 => 30
  | 10 => 31
  | 11 => 30
  | 12 => 31
  | _ => 0

/-- `valid` (R137). -/
def validTime (t : CalendarTime) : Bool :=
  t.second ≤ 59 && t.minute ≤ 59 && t.hour ≤ 23 && t.weekday ≤ 6 && 1 ≤ t.month && t.month ≤ 12 && t.year ≤ 99
    && 1 ≤ t.mday && t.mday ≤ daysInMonth t.month t.year

/-- The fields of an image before the validity test (R138). The source's 0-based month is an intermediate that cancels:
`(m - 1) + 1` over the integers is `m` (90_conflicts.md C2). -/
def imageFields (r : TimeImage) : CalendarTime :=
  { second := bcd2bin (r.sec &&& maskSec)
    minute := bcd2bin (r.min &&& maskMin)
    hour := bcd2bin (r.hour &&& maskHour)
    weekday := bcd2bin (r.wday &&& maskWday)
    mday := bcd2bin (r.mday &&& maskMday)
    month := bcd2bin (r.month &&& maskMonth)
    year := bcd2bin r.year }

/-- DECODE of an image: the fields if they are a valid date (R138). -/
def decodeImage (r : TimeImage) : Option CalendarTime :=
  if validTime (imageFields r) then some (imageFields r) else none

/-- ENCODE of a time, for any natural numbers (R139). -/
def encodeImage (t : CalendarTime) : TimeImage :=
  { sec := bin2bcd t.second
    min := bin2bcd t.minute
    hour := bin2bcd t.hour
    wday := bin2bcd t.weekday
    mday := bin2bcd t.mday
    month := bin2bcd t.month
    year := bin2bcd (t.year % 100) }

/-- The bytes of an image in address order (30_encoding.md R91). -/
def imageBytes (r : TimeImage) : List Byte := [r.sec, r.min, r.hour, r.wday, r.mday, r.month, r.year]

/-- The image of seven bytes in address order; a block read of seven returns exactly seven (20_memory.md R64). -/
def imageOfBytes (bs : List Byte) : TimeImage :=
  { sec := bs.getD 0 0, min := bs.getD 1 0, hour := bs.getD 2 0, wday := bs.getD 3 0, mday := bs.getD 4 0,
    month := bs.getD 5 0, year := bs.getD 6 0 }

/-- A supplied time is a valid date, its year taken mod 100 (43_device.md R212). -/
def validSupplied (t : CalendarTime) : Bool := validTime { t with year := t.year % 100 }

/-- The calendar successor, one second (60_exceptions.md R273). -/
def calendarSucc (t : CalendarTime) : CalendarTime :=
  if t.second < 59 then { t with second := t.second + 1 }
  else if t.minute < 59 then { t with second := 0, minute := t.minute + 1 }
  else if t.hour < 23 then { t with second := 0, minute := 0, hour := t.hour + 1 }
  else
    let t := { t with second := 0, minute := 0, hour := 0, weekday := (t.weekday + 1) % 7 }
    if t.mday < daysInMonth t.month t.year then { t with mday := t.mday + 1 }
    else if t.month < 12 then { t with mday := 1, month := t.month + 1 }
    else { t with mday := 1, month := 1, year := (t.year + 1) % 100 }

/-! The alarm bytes. -/

/-- AE, bit 7 of each alarm byte (10_state.md R29). -/
def maskAE : Byte := 0x80#8
def maskAlarmMin : Byte := 0x7F#8
def maskAlarmHour : Byte := 0x3F#8
def maskAlarmDay : Byte := 0x3F#8

/-- The day alarm byte: AE for day 0 (42_alarm.md R182). -/
def alarmDayByte (day : Nat) : Byte := if day = 0 then 0x80#8 else bin2bcd day

/-- A supplied alarm is in range (R180, R185). -/
def validAlarm (a : AlarmSpec) : Bool := a.minute ≤ 59 && a.hour ≤ 23 && a.day ≤ 31

/-- The alarm that the bytes `a0`, `a1`, `a2` hold; AE in the day byte reads as day 0 (R183). -/
def decodeAlarm (a0 a1 a2 : Byte) (enabled : Bool) : AlarmSpec :=
  { minute := bcd2bin (a0 &&& maskAlarmMin)
    hour := bcd2bin (a1 &&& maskAlarmHour)
    day := if btst a2 maskAE then 0 else bcd2bin (a2 &&& maskAlarmDay)
    enabled := enabled }

/-! The response frame. -/

/-- The status byte of a result (30_encoding.md R105). -/
def statusByte : Result → Byte
  | .ok _ => 0x00#8
  | .error (.transportError _) => 0x01#8
  | .error .invalidTimeValue => 0x02#8
  | .error .alarmUnsupported => 0x03#8
  | .error .unsupportedCommand => 0x04#8

/-- The response frame of a result: status, then the results in R101's order, unused bytes 0 (R105). -/
def responseFrame (r : Result) : Frame :=
  match r with
  | .ok (.number n) => frameOf (statusByte r) (numberByte n) 0 0 0 0 0 0
  | .ok (.byte b) => frameOf (statusByte r) b 0 0 0 0 0 0
  | .ok (.bool b) => frameOf (statusByte r) (boolByte b) 0 0 0 0 0 0
  | .ok (.time t) =>
    frameOf (statusByte r) (numberByte t.second) (numberByte t.minute) (numberByte t.hour) (numberByte t.weekday)
      (numberByte t.mday) (numberByte t.month) (numberByte t.year)
  | .ok (.image i) => frameOf (statusByte r) i.sec i.min i.hour i.wday i.mday i.month i.year
  | .ok (.alarm a pending) =>
    frameOf (statusByte r) (numberByte a.minute) (numberByte a.hour) (numberByte a.day) (boolByte a.enabled)
      (boolByte pending) 0 0
  | .ok .none => frameOf (statusByte r) 0 0 0 0 0 0 0
  | .error _ => frameOf (statusByte r) 0 0 0 0 0 0 0

end Sys2Proof.Machine
end

