-- ==== Sys2Proof/Machine/Memory.lean ====
section
/-! DEFINITION. The Peripheral's register space: its map and the reads and writes of bytes and blocks
(20_memory.md R60 to R66, R69). -/

namespace Sys2Proof.Machine

/-! The register map (20_memory.md R61). -/
def regSec : Addr := 0x10#8
def regMin : Addr := 0x11#8
def regHour : Addr := 0x12#8
def regWday : Addr := 0x13#8
def regMday : Addr := 0x14#8
def regMonth : Addr := 0x15#8
def regYear : Addr := 0x16#8
def regAlarmMin : Addr := 0x18#8
def regAlarmHour : Addr := 0x19#8
def regAlarmDay : Addr := 0x1A#8
def regExtension : Addr := 0x1D#8
def regFlag : Addr := 0x1E#8
def regControl : Addr := 0x1F#8

/-- A block lies inside the address space. One that runs past 0xFF is refused (20_memory.md R70): a transaction takes
the proof that its block lies inside, so that the model has no step for another (log entry 13). -/
abbrev inSpace (a : Addr) (n : Nat) : Prop := a.toNat + n ≤ 256

/-- Every single byte lies inside. -/
theorem inSpace_byte (a : Addr) : inSpace a 1 := a.isLt

/-- The byte at key `a`; an unlisted address reads as `blankByte` (log entries 1, 12). -/
def Memory.read (m : Memory) (a : Nat) : Byte :=
  match m with
  | [] => blankByte
  | (k, v) :: t => if k = a then v else Memory.read t a

/-- The list without any entry for key `a`. -/
def Memory.erase (m : Memory) (a : Nat) : Memory := m.filter fun c => c.1 != a

/-- The list with an entry for key `a` before the first larger key. -/
def Memory.insert (m : Memory) (a : Nat) (v : Byte) : Memory :=
  match m with
  | [] => [(a, v)]
  | (k, w) :: t => if a < k then (a, v) :: (k, w) :: t else (k, w) :: Memory.insert t a v

/-- The whole byte is stored (20_memory.md R65); an entry equal to `blankByte` is not kept, so that equal register
spaces are equal lists. -/
def Memory.write (m : Memory) (a : Nat) (v : Byte) : Memory :=
  if v = blankByte then Memory.erase m a else Memory.insert (Memory.erase m a) a v

/-- Keys strictly rise from `lo`, lie in the address space, and no entry is blank. -/
def Memory.wfFrom (lo : Nat) (m : Memory) : Bool :=
  match m with
  | [] => true
  | (k, v) :: t => lo ≤ k && k < 256 && v != blankByte && Memory.wfFrom (k + 1) t

/-- The canonical form. -/
def Memory.wf (m : Memory) : Bool := Memory.wfFrom 0 m

/-- The bytes at `a, a+1, ..., a+n-1`, in that order (R64). -/
def Memory.readBlock (m : Memory) (a n : Nat) : List Byte :=
  match n with
  | 0 => []
  | k + 1 => Memory.read m a :: Memory.readBlock m (a + 1) k

/-- First byte to address `a`, and so on upward (R66). -/
def Memory.writeBlock (m : Memory) (a : Nat) (vs : List Byte) : Memory :=
  match vs with
  | [] => m
  | v :: t => Memory.writeBlock (Memory.write m a v) (a + 1) t

/-- What a failed write leaves: byte `i` is stored where `stored` has true at `i`, and kept elsewhere (R69). -/
def Memory.writeSome (m : Memory) (a : Nat) (stored : List Bool) (vs : List Byte) : Memory :=
  match stored, vs with
  | true :: ks, v :: t => Memory.writeSome (Memory.write m a v) (a + 1) ks t
  | false :: ks, _ :: t => Memory.writeSome m (a + 1) ks t
  | _, _ => m

/-- The register at an address, the spec's `x[a]` (00_scope.md R10). -/
def Memory.get (m : Memory) (a : Addr) : Byte := Memory.read m a.toNat

/-- The spec's `x[a] <- v` (R10). -/
def Memory.set (m : Memory) (a : Addr) (v : Byte) : Memory := Memory.write m a.toNat v

/-- The spec's `x[a]` of a state (R10). -/
def State.x (s : State) (a : Addr) : Byte := Memory.get s.regs a

/-- The time image the registers hold (30_encoding.md R91). -/
def Memory.timeImage (m : Memory) : TimeImage :=
  { sec := Memory.get m regSec, min := Memory.get m regMin, hour := Memory.get m regHour,
    wday := Memory.get m regWday, mday := Memory.get m regMday, month := Memory.get m regMonth,
    year := Memory.get m regYear }

/-- The registers with a time image stored. -/
def Memory.setTimeImage (m : Memory) (r : TimeImage) : Memory :=
  Memory.writeBlock m regSec.toNat (imageBytes r)

end Sys2Proof.Machine
end

