-- ==== Sys2Proof/Machine/Peripheral.lean ====
section
/-! DEFINITION. The Peripheral agent: the five steps the RTC hardware takes by itself, each on the registers alone
(60_exceptions.md R270 to R278). A step whose condition does not hold leaves the registers as they are. -/

namespace Sys2Proof.Machine

/-- STOP: while it is 1 the clock is halted (60_exceptions.md R272). -/
def Memory.stopped (m : Memory) : Bool := btst (Memory.get m regControl) maskSTOP

/-- A sticky flag is set, the other Flag bits stay (R271, R275 to R278). -/
def Memory.setFlag (m : Memory) (mask : Byte) : Memory :=
  Memory.set m regFlag (bset (Memory.get m regFlag) mask)

/-- The image the clock moves to: a draw (R272), or the calendar successor where the present image decodes (R273). -/
def nextTimeImage (advance : TimeAdvance) (now draw : TimeImage) : TimeImage :=
  match advance, decodeImage now with
  | .calsucc, some t => encodeImage (calendarSucc t)
  | .calsucc, none => draw
  | .draw, _ => draw

/-- P-TIME (R272): only while STOP is clear. -/
def Memory.pTime (m : Memory) (advance : TimeAdvance) (draw : TimeImage) : Memory :=
  if Memory.stopped m then m
  else Memory.setTimeImage m (nextTimeImage advance (Memory.timeImage m) draw)

/-- P-OSC (R271): VLF set, with the P-TIME step of the draw kind that may accompany it, under P-TIME's own
condition (DEDUCED, unsafe; log entry 10). -/
def Memory.pOsc (m : Memory) (scramble : Option TimeImage) : Memory :=
  match scramble with
  | none => Memory.setFlag m maskVLF
  | some image => Memory.pTime (Memory.setFlag m maskVLF) .draw image

/-- One term of the alarm match: the field is ignored (AE), or its masked bits equal the time's (R274). -/
def alarmTerm (alarm time mask : Byte) : Bool := btst alarm maskAE || (alarm &&& mask) == (time &&& mask)

/-- AlarmMatch (R274); in week-day mode the day term is the draw `dayTerm`. -/
def Memory.alarmMatch (m : Memory) (dayTerm : Bool) : Bool :=
  alarmTerm (Memory.get m regAlarmMin) (Memory.get m regMin) maskAlarmMin
    && alarmTerm (Memory.get m regAlarmHour) (Memory.get m regHour) maskAlarmHour
    && (if btst (Memory.get m regExtension) maskWADA = wadaMday then
          alarmTerm (Memory.get m regAlarmDay) (Memory.get m regMday) maskAlarmDay
        else dayTerm)

/-- P-ALARM (R275): AF set where the alarm matches. -/
def Memory.pAlarm (m : Memory) (dayTerm : Bool) : Memory :=
  if Memory.alarmMatch m dayTerm then Memory.setFlag m maskAF else m

/-- P-TIMER (R276). -/
def Memory.pTimer (m : Memory) : Memory := Memory.setFlag m maskTF

/-- P-UPDATE (R277). -/
def Memory.pUpdate (m : Memory) : Memory := Memory.setFlag m maskUF

end Sys2Proof.Machine
end

