-- ==== Sys2Proof/Machine/Ops.lean ====
section
/-! DEFINITION. The named operations over the state that every meaning is written with: the updates of single fields,
the interrupt's entry and return, errors, the port's transactions with the steps other agents take between them, the
Control write that keeps the cache, the lock, and admission by phase. -/

namespace Sys2Proof.Machine

/-! ## Updates of single fields -/

def State.setRegs (s : State) (m : Memory) : State := { s with regs := m }
def State.setCache (s : State) (v : Byte) : State := { s with cache := v }
/-- `shutdown <- true`; nothing clears it (10_state.md R39). -/
def State.setShutdown (s : State) : State := { s with shutdown := true }
/-- `pstate <- p` (00_scope.md R10). -/
def State.setPState (s : State) (p : PState) : State := { s with pstate := p }
def State.setLock (s : State) (l : Lock) : State := { s with lock := l }
/-- `destroyed <- true`; nothing clears it (10_state.md R43). -/
def State.setDestroyed (s : State) : State := { s with destroyed := true }
/-- `emit` (00_scope.md R10), for a list of events in order. -/
def State.emit (s : State) (es : List Event) : State := { s with events := s.events ++ es }
/-- One more transaction in the trace (20_memory.md R85). -/
def State.record (s : State) (t : Transaction) : State := { s with trace := s.trace ++ [t] }
def State.setClean (s : State) (b : Bool) : State := { s with clean := b }
def State.setSynced (s : State) (b : Bool) : State := { s with synced := b }
def State.setResult (s : State) (r : Result) : State := { s with result := some r }
def State.setInputs (s : State) (l : List Input) : State := { s with inputs := l }
def State.setChoices (s : State) (l : List Choice) : State := { s with choices := l }
/-- One more free value has been drawn. -/
def State.drew (s : State) : State := { s with drawCount := s.drawCount + 1 }

/-! ## Results -/

/-- The operation returns `OK(v)` (00_scope.md R11). -/
def State.succeed (s : State) (v : Value) : State := s.setResult (.ok v)

/-- `raise e`: the operation ends with the error kind `e` and nothing else changes (60_exceptions.md R240). -/
def State.raise (s : State) (e : ErrorKind) : State := s.setResult (.error e)

/-- The response frame of the last finished operation; a refused operation has none (30_encoding.md R105). -/
def State.response (s : State) : Option Frame := s.result.map responseFrame

/-! ## The core's reset -/

/-- The reset of the core alone, the construction of an RtcDevice (10_state.md R49, 70_reset_and_hazards.md R301): the
core's side as after reset, while the Peripheral keeps its registers (R302) and the device its parameters. It is an event
from outside, no step of an agent (log entry 22). The cache's value is a DESIGN CHOICE (log entry 2). -/
def State.resetCore (s : State) : State :=
  { s with
    cache := 0x00#8
    shutdown := false
    pstate := .unarmed
    lock := .free
    destroyed := false
    events := []
    trace := []
    clean := false
    synced := false
    result := none }

/-! ## The interrupt -/

/-- The level of the interrupt line (10_state.md R37, 60_exceptions.md R279). -/
def State.irqOut (s : State) : Bool := irqLevel (s.x regFlag) (s.x regControl)

/-- `line_enabled` (10_state.md R41). -/
def State.lineEnabled (s : State) : Bool := s.pstate == .armed

/-- `task_scheduled` (R41). -/
def State.taskScheduled (s : State) : Bool := s.pstate == .handling

/-- The IRQ step is enabled (60_exceptions.md R254). -/
def State.irqEnabled (s : State) : Bool := s.lineEnabled && s.irqOut && !s.destroyed

/-- IRQ, the entry of the interrupt: the line is disabled and one deferred task scheduled, and nothing else changes
(R254). Where it is not enabled it does not happen (log entry 8). -/
def State.takeInterrupt (s : State) : State := if s.irqEnabled then s.setPState .handling else s

/-- The re-arm, the return from the interrupt at the end of a pass (R255, R257). -/
def State.rearm (s : State) : State := s.setPState (if s.shutdown then .disarmed else .armed)

/-! ## Steps of other agents -/

/-- A Peripheral step or the IRQ step (60_exceptions.md R254, R270 to R277). -/
def State.envStep (s : State) (e : EnvStep) : State :=
  match e with
  | .pOsc scramble => s.setRegs (Memory.pOsc s.regs scramble)
  | .pTime image => s.setRegs (Memory.pTime s.regs s.params.timeAdvance image)
  | .pAlarm dayTerm => s.setRegs (Memory.pAlarm s.regs dayTerm)
  | .pTimer => s.setRegs (Memory.pTimer s.regs)
  | .pUpdate => s.setRegs (Memory.pUpdate s.regs)
  | .irq => s.takeInterrupt

/-- Steps in order. -/
def State.envSteps (s : State) (es : List EnvStep) : State :=
  match es with
  | [] => s
  | e :: t => State.envSteps (s.envStep e) t

/-! ## The port -/

/-- The next choice: the first of those listed, or a free value where none is left (10_state.md R50; log entry 5). -/
def State.nextChoice (s : State) : Choice :=
  match s.choices with
  | c :: _ => c
  | [] => Config.freeChoice s.drawCount

/-- The state after its next choice has been used up. -/
def State.advanceChoice (s : State) : State :=
  match s.choices with
  | _ :: t => s.setChoices t
  | [] => s.drew

/-- What the other agents make of the state just before the next transaction (20_memory.md R78). -/
def State.interleave (s : State) : State := s.advanceChoice.envSteps s.nextChoice.steps

/-- `MemRead(a, n)` (20_memory.md R63, R64, R68): the bytes as they stand at the transaction, or none where it fails,
and the state after it, with the transaction in the trace (R85). A read changes no register (R72). The block lies inside the address space
(R70). -/
def State.memRead (s : State) (a : Addr) (n : Nat) (_inside : inSpace a n) : Option (List Byte) × State :=
  let s' := s.interleave
  match s.nextChoice.outcome with
  | .ok =>
    (some (Memory.readBlock s'.regs a.toNat n),
      s'.record ⟨⟨a, n, .read⟩, Memory.readBlock s'.regs a.toNat n, true⟩)
  | .fails _ => (none, s'.record ⟨⟨a, n, .read⟩, [], false⟩)

/-- `MemWrite(a, n, vs)` (20_memory.md R65, R66, R69): whether it succeeded, and the state after it. The block lies
inside the address space (R70). -/
def State.memWrite (s : State) (a : Addr) (vs : List Byte) (_inside : inSpace a vs.length) : Bool × State :=
  let s' := s.interleave
  match s.nextChoice.outcome with
  | .ok =>
    (true, (s'.setRegs (Memory.writeBlock s'.regs a.toNat vs)).record ⟨⟨a, vs.length, .write⟩, vs, true⟩)
  | .fails stored =>
    (false, (s'.setRegs (Memory.writeSome s'.regs a.toNat stored vs)).record ⟨⟨a, vs.length, .write⟩, vs, false⟩)

/-- A Control write (20_memory.md R82): where it succeeds the cache takes the byte at once; where it fails the cache
stays (10_state.md R38), and R48's `clean` ends. -/
def State.writeControl (s : State) (v : Byte) : Bool × State :=
  match s.memWrite regControl [v] (inSpace_byte _) with
  | (true, s') => (true, (s'.setCache v).setSynced true)
  | (false, s') => (false, s'.setClean false)

/-- Read, then go on; a failed read raises TransportError at once (43_device.md R218). -/
def State.readThen (s : State) (a : Addr) (n : Nat) (inside : inSpace a n) (k : List Byte → State → State) : State :=
  match s.memRead a n inside with
  | (some bs, s') => k bs s'
  | (none, s') => s'.raise (.transportError ⟨a, n, .read⟩)

/-- One byte read, then go on. -/
def State.readByteThen (s : State) (a : Addr) (k : Byte → State → State) : State :=
  s.readThen a 1 (inSpace_byte a) fun bs s' => k (bs.getD 0 0) s'

/-- Write, then go on; a failed write raises TransportError at once (43_device.md R218). -/
def State.writeThen (s : State) (a : Addr) (vs : List Byte) (inside : inSpace a vs.length) (k : State → State) :
    State :=
  match s.memWrite a vs inside with
  | (true, s') => k s'
  | (false, s') => s'.raise (.transportError ⟨a, vs.length, .write⟩)

/-- One byte written, then go on. -/
def State.writeByteThen (s : State) (a : Addr) (v : Byte) (k : State → State) : State :=
  s.writeThen a [v] (inSpace_byte a) k

/-- Write Control and, where it succeeds, the cache, then go on; a failed write raises TransportError at once. -/
def State.writeControlThen (s : State) (v : Byte) (k : State → State) : State :=
  match s.writeControl v with
  | (true, s') => k s'
  | (false, s') => s'.raise (.transportError ⟨regControl, 1, .write⟩)

/-- AF cleared by a read and a write of Flag, every other bit written back as read (42_alarm.md R185 step 5, R186). -/
def State.clearAlarmFlagThen (s : State) (k : State → State) : State :=
  s.readByteThen regFlag fun f s => s.writeByteThen regFlag (bclr f maskAF) k

/-! ## The lock -/

/-- `lock(); body; unlock()` by `who`, the lock being free (20_memory.md R75). -/
def State.underLock (s : State) (who : Lock) (body : State → State) : State :=
  (body (s.setLock who)).setLock .free

/-- The Foreground waits for the lock: its operation, with the operands as they were given, is still to run and nothing
else changes (R75). DESIGN CHOICE, safe: the operation stands at the head of the schedule, not as a frame, so that an
operand above 255 is kept whole (40_timecodec.md R145; log entry 7). -/
def State.waitToIssue (s : State) (i : Instr) : State := s.setInputs (.call i :: s.inputs)

/-- A Foreground operation `i` that runs `body` under the lock for its whole length (20_memory.md R76). -/
def State.locked (s : State) (i : Instr) (body : State → State) : Host.Outcome State Fault Refusal :=
  if s.lock = .free then .next (s.underLock .foreground body) else .next (s.waitToIssue i)

/-! ## Admission -/

/-- The phase of the device (43_device.md R210). -/
inductive Phase where
  | fresh
  | live
  | destroyed
deriving DecidableEq, Repr

/-- The phase is read off `pstate` and `destroyed` (R210). -/
def State.phase (s : State) : Phase :=
  if s.destroyed then .destroyed else if s.pstate = .unarmed then .fresh else .live

/-- An I/O operation: admitted in the live phase only (R210). -/
def State.whenLive (s : State) (go : Host.Outcome State Fault Refusal) : Host.Outcome State Fault Refusal :=
  match s.phase with
  | .live => go
  | .fresh => .refused .notInitialised
  | .destroyed => .refused .deviceDestroyed

/-- INIT: admitted in the fresh phase only (R210). -/
def State.whenFresh (s : State) (go : Host.Outcome State Fault Refusal) : Host.Outcome State Fault Refusal :=
  match s.phase with
  | .fresh => go
  | .live => .refused .alreadyInitialised
  | .destroyed => .refused .deviceDestroyed

/-- SHUTDOWN and unknown frames: admitted until the device is destroyed (R210). -/
def State.whenNotDestroyed (s : State) (go : Host.Outcome State Fault Refusal) : Host.Outcome State Fault Refusal :=
  match s.phase with
  | .fresh => go
  | .live => go
  | .destroyed => .refused .deviceDestroyed

/-- An alarm operation: live, and a device with an interrupt line (42_alarm.md R180, 60_exceptions.md R243). -/
def State.whenAlarm (s : State) (go : Host.Outcome State Fault Refusal) : Host.Outcome State Fault Refusal :=
  s.whenLive (if s.params.hasIrq then go else .next (s.raise .alarmUnsupported))

end Sys2Proof.Machine
end

