-- ==== Sys2Proof/Machine/Alarm.lean ====
section
/-! DEFINITION. AlarmManager: GETALARM, SETALARM, ALARMEN (42_alarm.md). -/

namespace Sys2Proof.Machine

/-- GETALARM under the lock: the alarm block, then Flag; `enabled` and `pending` by the cache (R184). -/
def State.getAlarmBody (s : State) : State :=
  s.readThen regAlarmMin 3 (by decide) fun a s =>
  s.readByteThen regFlag fun f s =>
  let enabled := btst s.cache maskAIE
  s.succeed (.alarm (decodeAlarm (a.getD 0 0) (a.getD 1 0) (a.getD 2 0) enabled) (btst f maskAF && enabled))

/-- GETALARM (R184). -/
def execGetAlarm (s : State) : Host.Outcome State Fault Refusal :=
  s.whenAlarm (s.locked .getAlarm State.getAlarmBody)

/-- SETALARM step 1: the alarm interrupt disabled where the cache has it enabled (R185). -/
def State.disableAlarmThen (s : State) (k : State → State) : State :=
  if btst s.cache maskAIE then s.writeControlThen (bclr s.cache maskAIE) k else k s

/-- SETALARM step 6: the alarm interrupt enabled where the caller asked for it (R185). -/
def State.enableAlarm (s : State) (enabled : Bool) : State :=
  if enabled then s.writeControlThen (bset s.cache maskAIE) fun s => s.succeed .none else s.succeed .none

/-- The minute and hour alarm bytes lie inside the address space. -/
theorem alarmPair_inSpace : inSpace regAlarmMin 2 := by decide

/-- SETALARM under the lock, steps 1 to 6 (R185). -/
def State.setAlarmBody (a : AlarmSpec) (s : State) : State :=
  s.disableAlarmThen fun s =>
  s.writeThen regAlarmMin [bin2bcd a.minute, bin2bcd a.hour] alarmPair_inSpace fun s =>
  s.readByteThen regExtension fun e s =>
  s.writeByteThen regExtension (bput e maskWADA wadaMday) fun s =>
  s.writeByteThen regAlarmDay (alarmDayByte a.day) fun s =>
  s.clearAlarmFlagThen fun s =>
  s.enableAlarm a.enabled

/-- SETALARM (R180, R185). -/
def execSetAlarm (a : AlarmSpec) (s : State) : Host.Outcome State Fault Refusal :=
  s.whenAlarm (if validAlarm a then s.locked (.setAlarm a) (State.setAlarmBody a)
    else .next (s.raise .invalidTimeValue))

/-- ALARMEN under the lock: AF cleared first, then Control written if the byte changes (R186). -/
def State.alarmEnBody (enabled : Bool) (s : State) : State :=
  let c := bput s.cache maskAIE enabled
  s.clearAlarmFlagThen fun s =>
  if c = s.cache then s.succeed .none else s.writeControlThen c fun s => s.succeed .none

/-- ALARMEN (R186). -/
def execAlarmEn (enabled : Bool) (s : State) : Host.Outcome State Fault Refusal :=
  s.whenAlarm (s.locked (.alarmEn enabled) (State.alarmEnBody enabled))

end Sys2Proof.Machine
end

