-- ==== Sys2Proof/Machine/Codec.lean ====
section
/-! DEFINITION. TimeCodec: BCD2BIN, BIN2BCD, DECODE, ENCODE (40_timecodec.md). Pure: admitted in every phase, and only
the result changes (R130). -/

namespace Sys2Proof.Machine

/-- BCD2BIN b (R131). -/
def execBcd2bin (b : Byte) (s : State) : Host.Outcome State Fault Refusal :=
  .next (s.succeed (.number (bcd2bin b)))

/-- BIN2BCD v (R132). -/
def execBin2bcd (v : Nat) (s : State) : Host.Outcome State Fault Refusal :=
  .next (s.succeed (.byte (bin2bcd v)))

/-- What DECODE of an image returns (R138). -/
def decodeResult (r : TimeImage) : Result :=
  match decodeImage r with
  | some t => .ok (.time t)
  | none => .error .invalidTimeValue

/-- DECODE r0 .. r6 (R138). -/
def execDecode (r : TimeImage) (s : State) : Host.Outcome State Fault Refusal :=
  .next (s.setResult (decodeResult r))

/-- ENCODE of seven numbers (R139). -/
def execEncode (t : CalendarTime) (s : State) : Host.Outcome State Fault Refusal :=
  .next (s.succeed (.image (encodeImage t)))

end Sys2Proof.Machine
end

