-- ==== Sys2Proof/Machine/Pipeline.lean ====
section
/-! DEFINITION. EventPipeline: one pass of the deferred task, and the turns of the agents other than the Foreground
(60_exceptions.md R253 to R258). -/

namespace Sys2Proof.Machine

/-- The pass up to its re-arm: Flag read once, events emitted, Flag written once (R255); a failure is reported and the
pass goes on (R256). -/
def State.drainFlags (s : State) : State :=
  match s.memRead regFlag 1 (inSpace_byte _) with
  | (none, s) => s.emit [.passError .read]
  | (some bs, s) =>
    match (s.emit (drainedEvents (bs.getD 0 0))).memWrite regFlag [drainedFlag (bs.getD 0 0)]
        (inSpace_byte _) with
    | (true, s) => s
    | (false, s) => s.emit [.passError .write]

/-- One pass under the lock, the lock being free: Flag drained, then the line re-armed (R255). -/
def State.drainPass (s : State) : State := s.underLock .deferred fun s => s.drainFlags.rearm

/-- DRAIN (R255): enabled in Handling while the device lives; where the lock is held it waits, its turn still to come.
Where it is not enabled it does not happen (log entry 8). -/
def State.drain (s : State) : State :=
  if s.taskScheduled && !s.destroyed then
    if s.lock = .free then s.drainPass else s.setInputs (.turn .drain :: s.inputs)
  else s

/-- A turn of an agent other than the Foreground. -/
def State.takeTurn (s : State) (t : Turn) : State :=
  match t with
  | .idle => s
  | .env e => s.envStep e
  | .drain => s.drain

/-- The next line of the schedule: the first of those listed, or a free turn where none is left (log entry 4). -/
def State.nextInput (s : State) : Input :=
  match s.inputs with
  | i :: _ => i
  | [] => .turn (Config.freeTurn s.drawCount)

/-- The state after its next line has been taken. -/
def State.advanceInput (s : State) : State :=
  match s.inputs with
  | _ :: t => s.setInputs t
  | [] => s.drew

/-- A frame that is no operation: UnsupportedCommand while the device lives, no state changes and no transaction is
issued (30_encoding.md R104, 60_exceptions.md R244); refused after SHUTDOWN (43_device.md R210). -/
def rejectFrame (s : State) : Host.Outcome State Fault Refusal :=
  s.whenNotDestroyed (.next (s.raise .unsupportedCommand))

end Sys2Proof.Machine
end

