-- ==== Sys2Proof/Machine/Device.lean ====
section
/-! DEFINITION. RtcDevice: GETTIME, SETTIME, INIT, SHUTDOWN (43_device.md). -/

namespace Sys2Proof.Machine

/-- The seven time registers lie inside the address space. -/
theorem timeBlock_inSpace : inSpace regSec 7 := by decide

/-- GETTIME under the lock: one 7-byte read, decoded (R211). -/
def State.getTimeBody (s : State) : State :=
  s.readThen regSec 7 timeBlock_inSpace fun r s => s.setResult (decodeResult (imageOfBytes r))

/-- GETTIME (R211). -/
def execGetTime (s : State) : Host.Outcome State Fault Refusal :=
  s.whenLive (s.locked .getTime State.getTimeBody)

/-- The second Control pair of SETTIME, "clear the stop bit": the transaction that failed, if any, and the state
(R212). -/
def State.clearStop (s : State) : Option TxInfo × State :=
  match s.memRead regControl 1 (inSpace_byte _) with
  | (none, s) => (some ⟨regControl, 1, .read⟩, s)
  | (some bs, s) =>
    match s.writeControl (bclr (bs.getD 0 0) maskSTOP) with
    | (true, s) => (none, s)
    | (false, s) => (some ⟨regControl, 1, .write⟩, s)

/-- SETTIME's report: the block write's failure first, else the second Control pair's (R215). -/
def setTimeResult (blockWritten : Bool) (e2 : Option TxInfo) : Result :=
  match blockWritten, e2 with
  | false, _ => .error (.transportError ⟨regSec, 7, .write⟩)
  | true, some info => .error (.transportError info)
  | true, none => .ok .none

/-- SETTIME from the block write on: the second Control pair is attempted whatever became of the write (R212). -/
def State.writeTimeAndRestart (s : State) (r : TimeImage) : State :=
  let w := s.memWrite regSec (imageBytes r) timeBlock_inSpace
  let e2 := w.2.clearStop
  e2.2.setResult (setTimeResult w.1 e2.1)

/-- SETTIME under the lock: the first Control pair sets STOP, then the rest (R212). -/
def State.setTimeBody (t : CalendarTime) (s : State) : State :=
  s.readByteThen regControl fun c s =>
  s.writeControlThen (bset c maskSTOP) fun s =>
  s.writeTimeAndRestart (encodeImage t)

/-- SETTIME (R212). -/
def execSetTime (t : CalendarTime) (s : State) : Host.Outcome State Fault Refusal :=
  s.whenLive (if validSupplied t then s.locked (.setTime t) (State.setTimeBody t)
    else .next (s.raise .invalidTimeValue))

/-- INIT's end: the pipeline armed or disarmed, R48's conditions started, the result (R213, 10_state.md R48). -/
def State.finishInit (s : State) (zeroed needsReset : Bool) : State :=
  (((s.setPState (if s.params.hasIrq then .armed else .disarmed)).setClean true).setSynced zeroed).succeed
    (.bool needsReset)

/-- INIT's inspection of the Flag byte found: ClockUnreliable for VLF, Flag and Control zeroed where any named flag was
set (R213). -/
def State.inspectFlag (s : State) (flag : Byte) : State :=
  let needsReset := btst flag maskVLF
  let s := s.emit (if needsReset then [.clockUnreliable] else [])
  if btst flag maskAnyFlag then
    s.writeByteThen regFlag 0x00#8 fun s =>
    s.writeControlThen 0x00#8 fun s =>
    s.finishInit true needsReset
  else s.finishInit false needsReset

/-- INIT's sequence up to its result (R213). -/
def State.initSequence (s : State) : State :=
  s.writeByteThen s.params.rsv0Addr s.params.rsv0Val fun s =>
  s.writeByteThen s.params.rsv1Addr s.params.rsv1Val fun s =>
  s.readThen regExtension 3 (by decide) fun r s =>
  (s.setCache (initControl (r.getD 2 0))).writeByteThen regExtension (initExtension (r.getD 0 0) s.params.fselDefault)
    fun s => s.inspectFlag (r.getD 1 0)

/-- A failed INIT leaves the device fresh, and the cache counts as unwritten again (R213): it takes the value the model
gives an unwritten cache (log entry 2). -/
def State.forgetCache (s : State) : State := if s.pstate = .unarmed then s.setCache 0x00#8 else s

/-- INIT under the lock (R213). -/
def State.initBody (s : State) : State := s.initSequence.forgetCache

/-- INIT (R213). -/
def execInit (s : State) : Host.Outcome State Fault Refusal :=
  s.whenFresh (s.locked .init State.initBody)

/-- SHUTDOWN's critical section: `shutdown` set, and the line masked (R214). -/
def State.maskLine (s : State) : State :=
  if s.pstate = .armed ∨ s.pstate = .unarmed then s.setShutdown.setPState .disarmed else s.setShutdown

/-- A task that is scheduled and has not run: awaited or cancelled, as the next choice has it (R214; log entry 16). -/
def State.settleTask (s : State) : State :=
  if s.pstate = .handling then
    if s.nextChoice.awaitTask then s.advanceChoice.drainPass else s.advanceChoice.setPState .disarmed
  else s

/-- SHUTDOWN once it has the lock (R214). -/
def State.teardown (s : State) : State :=
  ((s.underLock .foreground State.maskLine).settleTask.setDestroyed).succeed .none

/-- SHUTDOWN (R214). -/
def execShutdown (s : State) : Host.Outcome State Fault Refusal :=
  s.whenNotDestroyed (if s.lock = .free then .next s.teardown else .next (s.waitToIssue .shutdown))

end Sys2Proof.Machine
end

