-- ==== Sys2Proof/Machine/StatusRegs.lean ====
section
/-! DEFINITION. StatusRegisters: BTST, BSET, BCLR (41_statusregs.md). Pure functions of a byte and a mask: admitted in
every phase, and only the result changes (R160). -/

namespace Sys2Proof.Machine

/-- BTST b, m (R162). -/
def execBtst (b m : Byte) (s : State) : Host.Outcome State Fault Refusal :=
  .next (s.succeed (.bool (btst b m)))

/-- BSET b, m (R163). -/
def execBset (b m : Byte) (s : State) : Host.Outcome State Fault Refusal :=
  .next (s.succeed (.byte (bset b m)))

/-- BCLR b, m (R164). -/
def execBclr (b m : Byte) (s : State) : Host.Outcome State Fault Refusal :=
  .next (s.succeed (.byte (bclr b m)))

end Sys2Proof.Machine
end

