-- ==== Sys2Proof/Machine/Dispatch.lean ====
section
/-! DEFINITION. The dispatch: one arm per operation, each a direct call of its meaning. -/

namespace Sys2Proof.Machine

def exec (i : Instr) (s : State) : Host.Outcome State Fault Refusal :=
  match i with
  | .bcd2bin b => Sys2Proof.Machine.execBcd2bin b s
  | .bin2bcd v => Sys2Proof.Machine.execBin2bcd v s
  | .decode r => Sys2Proof.Machine.execDecode r s
  | .encode t => Sys2Proof.Machine.execEncode t s
  | .btst b m => Sys2Proof.Machine.execBtst b m s
  | .bset b m => Sys2Proof.Machine.execBset b m s
  | .bclr b m => Sys2Proof.Machine.execBclr b m s
  | .getTime => Sys2Proof.Machine.execGetTime s
  | .setTime t => Sys2Proof.Machine.execSetTime t s
  | .getAlarm => Sys2Proof.Machine.execGetAlarm s
  | .setAlarm a => Sys2Proof.Machine.execSetAlarm a s
  | .alarmEn enabled => Sys2Proof.Machine.execAlarmEn enabled s
  | .init => Sys2Proof.Machine.execInit s
  | .shutdown => Sys2Proof.Machine.execShutdown s

end Sys2Proof.Machine
end

