-- ==== Sys2Proof/Machine/Step.lean ====
section
/-! DEFINITION. One step: the next line of the schedule is taken, a command frame decoded and run, or another agent's
turn made. -/

namespace Sys2Proof.Machine

/-- A command frame of the Foreground: decoded and run, or rejected (30_encoding.md R104). -/
def runFrame (f : Frame) (s : State) : Host.Outcome State Fault Refusal :=
  match decodeFrame f with
  | .ok i => exec i s
  | .error _ => rejectFrame s

/-- One step of the machine (00_scope.md R4, 20_memory.md R81): the next line of the schedule. -/
def step (s : State) : Host.Outcome State Fault Refusal :=
  match s.nextInput with
  | .issue f => runFrame f s.advanceInput
  | .call i => exec i s.advanceInput
  | .turn t => .next (s.advanceInput.takeTurn t)

/-- `s` with the command frame that holds the low `nbits` bits of `w` as the next line of its schedule. A program comes
to the machine from outside, one frame at a time (20_memory.md R81); log entry 4. -/
def State.withFetchWord (s : State) (nbits w : Nat) : State :=
  s.setInputs (.issue (BitVec.ofNat 64 (w % 2 ^ nbits)) :: s.inputs)

end Sys2Proof.Machine
end

