-- ==== Sys2Proof/WellFormed.lean ====
section
/-! DEFINITION. Which operations a command frame can carry: every operand is one unsigned byte
(30_encoding.md R100, 40_timecodec.md R145). -/

namespace Sys2Proof

/-- Every field fits one operand byte. -/
def CalendarTime.fits (t : CalendarTime) : Bool :=
  t.second < 256 && t.minute < 256 && t.hour < 256 && t.weekday < 256 && t.mday < 256 && t.month < 256
    && t.year < 256

/-- Every field fits one operand byte. -/
def AlarmSpec.fits (a : AlarmSpec) : Bool :=
  a.minute < 256 && a.hour < 256 && a.day < 256

/-- The operation can be issued as a frame: each numeric operand is 0 to 255 (R100). -/
def Instr.wellFormed : Instr → Bool
  | .bcd2bin _ => true
  | .bin2bcd v => v < 256
  | .decode _ => true
  | .encode t => t.fits
  | .btst _ _ => true
  | .bset _ _ => true
  | .bclr _ _ => true
  | .getTime => true
  | .setTime t => t.fits
  | .getAlarm => true
  | .setAlarm a => a.fits
  | .alarmEn _ => true
  | .init => true
  | .shutdown => true

end Sys2Proof
end

