-- ==== Sys2Proof/Safety.lean ====
section
/-! DEFINITION. The terms the claims are stated in: the invariant of the machine, which transactions and which stores
an operation may make, the choices ahead of a state, and the frames the spec's tables give. -/

namespace Sys2Proof.Machine

/-! ## The choices ahead -/

/-- The choice that the transaction after `k` others will meet: listed, or a free value (10_state.md R50). -/
def State.choiceAt (s : State) (k : Nat) : Choice :=
  match s.choices[k]? with
  | some c => c
  | none => Config.freeChoice (s.drawCount + (k - s.choices.length))

/-- The state with its next `n` choices used up. -/
def State.skipChoices (s : State) (n : Nat) : State :=
  { s with choices := s.choices.drop n, drawCount := s.drawCount + (n - s.choices.length) }

/-- The next `n` transactions succeed. -/
def State.allSucceed (s : State) (n : Nat) : Prop := ∀ k < n, (s.choiceAt k).outcome = .ok

/-- No other agent steps before any of the next `n` transactions. -/
def State.undisturbed (s : State) (n : Nat) : Prop := ∀ k < n, (s.choiceAt k).steps = []

/-- The steps other agents take before the next `n` transactions, in order. -/
def State.stepsBefore (s : State) (n : Nat) : List EnvStep := (List.range n).flatMap fun k => (s.choiceAt k).steps

/-! ## The invariant -/

/-- R48 of 10_state.md: while `clean` holds, the cache is the Control register once INIT has zeroed or a Control write
has succeeded, and the Control register without TEST and the reserved bits before. -/
def State.cacheCoherent (s : State) : Prop :=
  s.clean = true → s.cache = if s.synced then s.x 0x1F#8 else s.x 0x1F#8 &&& 0x7C#8

/-- What every step keeps. -/
structure State.Inv (s : State) : Prop where
  /-- The register space is in canonical form. -/
  regsCanonical : Memory.wf s.regs = true
  /-- R7's constraint on the reserved addresses. -/
  paramsAdmissible : s.params.wf = true
  /-- No operation and no pass is under way between steps (20_memory.md R75). -/
  lockFree : s.lock = .free
  /-- Teardown leaves the line masked for good (43_device.md R214). -/
  destroyedDisarmed : s.destroyed = true → s.pstate = .disarmed
  /-- SHUTDOWN sets both, and completes (R214). -/
  shutdownDestroyed : s.shutdown = s.destroyed
  /-- A device without a line never arms (60_exceptions.md R262). -/
  armedHasLine : s.pstate = .armed ∨ s.pstate = .handling → s.params.hasIrq = true
  /-- `clean` begins with a successful INIT (10_state.md R48). -/
  cleanInitialised : s.clean = true → s.pstate ≠ .unarmed
  /-- R48. -/
  coherent : s.cacheCoherent

/-! ## Classes of operations -/

/-- The seven pure operations (40_timecodec.md R130, 41_statusregs.md R160). -/
def isPure : Instr → Bool
  | .bcd2bin _ => true
  | .bin2bcd _ => true
  | .decode _ => true
  | .encode _ => true
  | .btst _ _ => true
  | .bset _ _ => true
  | .bclr _ _ => true
  | .getTime => false
  | .setTime _ => false
  | .getAlarm => false
  | .setAlarm _ => false
  | .alarmEn _ => false
  | .init => false
  | .shutdown => false

/-- The five I/O operations of the live phase (43_device.md R210). -/
def isLiveIo : Instr → Bool
  | .bcd2bin _ => false
  | .bin2bcd _ => false
  | .decode _ => false
  | .encode _ => false
  | .btst _ _ => false
  | .bset _ _ => false
  | .bclr _ _ => false
  | .getTime => true
  | .setTime _ => true
  | .getAlarm => true
  | .setAlarm _ => true
  | .alarmEn _ => true
  | .init => false
  | .shutdown => false

/-- How many operand bytes the operation with this opcode uses (30_encoding.md R101). -/
def operandCount (opcode : Byte) : Nat :=
  match opcode.toNat with
  | 0x01 => 1
  | 0x02 => 1
  | 0x03 => 7
  | 0x04 => 7
  | 0x08 => 2
  | 0x09 => 2
  | 0x0A => 2
  | 0x11 => 7
  | 0x13 => 4
  | 0x14 => 1
  | _ => 0

/-- The result bytes q0, q1, ... of a result (30_encoding.md R101, R105). -/
def resultBytes : Result → List Byte
  | .ok .none => []
  | .ok (.number n) => [BitVec.ofNat 8 n]
  | .ok (.byte b) => [b]
  | .ok (.bool b) => [if b then 1#8 else 0#8]
  | .ok (.time t) =>
    [BitVec.ofNat 8 t.second, BitVec.ofNat 8 t.minute, BitVec.ofNat 8 t.hour, BitVec.ofNat 8 t.weekday,
      BitVec.ofNat 8 t.mday, BitVec.ofNat 8 t.month, BitVec.ofNat 8 t.year]
  | .ok (.image r) => [r.sec, r.min, r.hour, r.wday, r.mday, r.month, r.year]
  | .ok (.alarm a pending) =>
    [BitVec.ofNat 8 a.minute, BitVec.ofNat 8 a.hour, BitVec.ofNat 8 a.day, if a.enabled then 1#8 else 0#8,
      if pending then 1#8 else 0#8]
  | .error _ => []

/-! ## Transactions -/

/-- A transaction as R62 writes it. -/
def txRead (a : Addr) (n : Nat) : TxInfo := ⟨a, n, .read⟩
def txWrite (a : Addr) (n : Nat) : TxInfo := ⟨a, n, .write⟩

/-- The transactions of a pass (20_memory.md R62). -/
def passTransactions : List TxInfo := [txRead 0x1E#8 1, txWrite 0x1E#8 1]

/-- The transactions R62 lists for each operation; SHUTDOWN issues none itself, and an awaited pass the pass's
(43_device.md R214). -/
def listedTransactions (p : Params) : Instr → List TxInfo
  | .bcd2bin _ => []
  | .bin2bcd _ => []
  | .decode _ => []
  | .encode _ => []
  | .btst _ _ => []
  | .bset _ _ => []
  | .bclr _ _ => []
  | .getTime => [txRead 0x10#8 7]
  | .setTime _ => [txWrite 0x10#8 7, txRead 0x1F#8 1, txWrite 0x1F#8 1]
  | .getAlarm => [txRead 0x18#8 3, txRead 0x1E#8 1]
  | .setAlarm _ =>
    [txWrite 0x18#8 2, txWrite 0x1A#8 1, txRead 0x1D#8 1, txWrite 0x1D#8 1, txRead 0x1E#8 1, txWrite 0x1E#8 1,
      txWrite 0x1F#8 1]
  | .alarmEn _ => [txRead 0x1E#8 1, txWrite 0x1E#8 1, txWrite 0x1F#8 1]
  | .init =>
    [txRead 0x1D#8 3, txWrite 0x1D#8 1, txWrite 0x1E#8 1, txWrite 0x1F#8 1, txWrite p.rsv0Addr 1,
      txWrite p.rsv1Addr 1]
  | .shutdown => passTransactions

/-- A Control write. -/
def Transaction.isControlWrite (t : Transaction) : Bool := t.info == txWrite 0x1F#8 1

/-- The byte of the last Control write that succeeded, or `c` where there is none (20_memory.md R82). -/
def lastControlWrite (c : Byte) : List Transaction → Byte
  | [] => c
  | t :: rest => lastControlWrite (if t.isControlWrite && t.succeeded then t.data.getD 0 0 else c) rest

/-- `m'` is what the transactions make of `m`: a successful write stores its bytes, a failed one any of them, a read
none (20_memory.md R65, R66, R68, R69). -/
inductive Replays : Memory → List Transaction → Memory → Prop where
  | done (m : Memory) : Replays m [] m
  | read (m m' : Memory) (t : Transaction) (rest : List Transaction) :
      t.info.dir = .read → Replays m rest m' → Replays m (t :: rest) m'
  | stored (m m' : Memory) (t : Transaction) (rest : List Transaction) :
      t.info.dir = .write → t.succeeded = true →
      Replays (Memory.writeBlock m t.info.addr.toNat t.data) rest m' → Replays m (t :: rest) m'
  | failed (m m' : Memory) (t : Transaction) (rest : List Transaction) (ks : List Bool) :
      t.info.dir = .write → t.succeeded = false →
      Replays (Memory.writeSome m t.info.addr.toNat ks t.data) rest m' → Replays m (t :: rest) m'

/-! ## Stores -/

/-- The seven time registers (10_state.md R21). -/
def isTimeRegister (a : Addr) : Bool := 0x10#8 ≤ a && a ≤ 0x16#8

/-- The addresses each operation stores to on some path (10_state.md R51). -/
def mayStore (p : Params) (i : Instr) (a : Addr) : Bool :=
  match i with
  | .bcd2bin _ => false
  | .bin2bcd _ => false
  | .decode _ => false
  | .encode _ => false
  | .btst _ _ => false
  | .bset _ _ => false
  | .bclr _ _ => false
  | .getTime => false
  | .setTime _ => isTimeRegister a || a == 0x1F#8
  | .getAlarm => false
  | .setAlarm _ =>
    a == 0x18#8 || a == 0x19#8 || a == 0x1A#8 || a == 0x1D#8 || a == 0x1E#8 || a == 0x1F#8
  | .alarmEn _ => a == 0x1E#8 || a == 0x1F#8
  | .init => a == p.rsv0Addr || a == p.rsv1Addr || a == 0x1D#8 || a == 0x1E#8 || a == 0x1F#8
  | .shutdown => a == 0x1E#8

/-- The addresses an operation issued in state `s` stores to where no other agent steps meanwhile: those of the form
that runs there. -/
def storesIn (s : State) (i : Instr) (a : Addr) : Bool :=
  mayStore s.params i a && match i with
    | .setTime t => validSupplied t
    | .setAlarm b =>
      s.params.hasIrq && validAlarm b && (a != 0x1F#8 || btst s.cache maskAIE || b.enabled)
    | .alarmEn e => s.params.hasIrq && (a != 0x1F#8 || btst s.cache maskAIE != e)
    | .init => (a != 0x1E#8 && a != 0x1F#8) || btst (s.x 0x1E#8) maskAnyFlag
    | .shutdown => s.pstate == .handling && (s.choiceAt 0).awaitTask
    | .bcd2bin _ => false
    | .bin2bcd _ => false
    | .decode _ => false
    | .encode _ => false
    | .btst _ _ => false
    | .bset _ _ => false
    | .bclr _ _ => false
    | .getTime => false
    | .getAlarm => false

/-- The operations that may assign the cache (10_state.md R51). -/
def mayAssignCache : Instr → Bool
  | .bcd2bin _ => false
  | .bin2bcd _ => false
  | .decode _ => false
  | .encode _ => false
  | .btst _ _ => false
  | .bset _ _ => false
  | .bclr _ _ => false
  | .getTime => false
  | .setTime _ => true
  | .getAlarm => false
  | .setAlarm _ => true
  | .alarmEn _ => true
  | .init => true
  | .shutdown => false

/-! ## Sequencing -/

/-- The operation whose turn is next: decoded from a frame, called, or waiting for the lock. -/
def State.nextOperation (s : State) : Option Instr :=
  match s.nextInput with
  | .issue f => (decodeFrame f).toOption
  | .call i => some i
  | .turn _ => none

/-- The step from `s` to `t` takes the interrupt: the IRQ step itself, with its condition (60_exceptions.md R254), or an
I/O operation of the live phase in which another agent takes the IRQ step before one of its transactions
(20_memory.md R78). -/
def takesInterrupt (s t : State) : Prop :=
  s.nextInput = .turn (.env .irq) ∧ s.irqOut = true ∧ s.destroyed = false
  ∨ ∃ i k, s.nextOperation = some i ∧ isLiveIo i = true ∧ s.phase = .live
    ∧ s.trace.length + k < t.trace.length ∧ .irq ∈ (s.choiceAt k).steps

/-- The transitions of `pstate` that 60_exceptions.md R253 lists, each with its step and its condition; staying put is
always allowed. -/
def sequencerMay (s t : State) : Prop :=
  match s.pstate, t.pstate with
  | .unarmed, .unarmed => True
  | .unarmed, .armed => s.nextOperation = some .init ∧ s.params.hasIrq = true
  | .unarmed, .disarmed =>
    s.nextOperation = some .init ∧ s.params.hasIrq = false ∨ s.nextOperation = some .shutdown ∧ t.shutdown = true
  | .armed, .armed => True
  | .armed, .handling => takesInterrupt s t
  | .armed, .disarmed => s.nextOperation = some .shutdown ∧ t.shutdown = true
  | .handling, .handling => True
  | .handling, .armed => s.nextInput = .turn .drain ∧ s.shutdown = false
  | .handling, .disarmed =>
    s.nextInput = .turn .drain ∧ s.shutdown = true ∨ s.nextOperation = some .shutdown ∧ t.shutdown = true
  | .disarmed, .disarmed => True
  | _, _ => False

end Sys2Proof.Machine
end

