-- ==== Sys2Proof/Certificates/Slice0/Obligations.lean ====
section
/-! DEFINITION. The statements about the machine, from the numbered rules of spec/. -/

open Sys2Proof Sys2Proof.Machine

/-! ## Encoding -/

/-- R100 to R104: the frame of every operation a frame can carry decodes to that operation. -/
def Obligations.DecodeEncodeRoundTrip : Prop :=
  ∀ i : Instr, i.wellFormed = true → decodeFrame (encodeFrame i) = .ok i

/-- R111: the five worked encodings, as bytes and as 64-bit values, in both directions. (The spec marks R111 as
derived.) -/
def Obligations.WorkedEncodingsAgree : Prop :=
  (encodeFrame (.setAlarm ⟨30, 7, 0, true⟩) = 0x0000000100071E13#64
    ∧ frameBytes 0x0000000100071E13#64 = [0x13, 0x1E, 0x07, 0x00, 0x01, 0x00, 0x00, 0x00]
    ∧ decodeFrame 0x0000000100071E13#64 = .ok (.setAlarm ⟨30, 7, 0, true⟩))
  ∧ (encodeFrame (.setTime ⟨30, 15, 12, 3, 25, 9, 23⟩) = 0x170919030C0F1E11#64
    ∧ frameBytes 0x170919030C0F1E11#64 = [0x11, 0x1E, 0x0F, 0x0C, 0x03, 0x19, 0x09, 0x17]
    ∧ decodeFrame 0x170919030C0F1E11#64 = .ok (.setTime ⟨30, 15, 12, 3, 25, 9, 23⟩))
  ∧ (encodeFrame (.decode ⟨0x30, 0x15, 0x12, 0x03, 0x25, 0x09, 0x23⟩) = 0x2309250312153003#64
    ∧ frameBytes 0x2309250312153003#64 = [0x03, 0x30, 0x15, 0x12, 0x03, 0x25, 0x09, 0x23]
    ∧ decodeFrame 0x2309250312153003#64 = .ok (.decode ⟨0x30, 0x15, 0x12, 0x03, 0x25, 0x09, 0x23⟩))
  ∧ (encodeFrame .init = 0x0000000000000015#64
    ∧ frameBytes 0x0000000000000015#64 = [0x15, 0x00, 0x00, 0x00, 0x00, 0x00, 0x00, 0x00]
    ∧ decodeFrame 0x0000000000000015#64 = .ok .init)
  ∧ (encodeFrame (.alarmEn true) = 0x0000000000000114#64
    ∧ frameBytes 0x0000000000000114#64 = [0x14, 0x01, 0x00, 0x00, 0x00, 0x00, 0x00, 0x00]
    ∧ decodeFrame 0x0000000000000114#64 = .ok (.alarmEn true))

/-- R103: a frame decodes exactly when its `c0` is an opcode; two frames that agree on `c0` and on the operand bytes
that operation uses decode alike; and what is decoded has that opcode and operands of one byte each. -/
def Obligations.DecodeIgnoresUnusedOperandBytes : Prop :=
  (∀ f : Frame, (∃ i, decodeFrame f = .ok i) ↔ ∃ i : Instr, i.opcode = frameByte f 0)
  ∧ (∀ f g : Frame, (∀ k ≤ operandCount (frameByte f 0), frameByte f k = frameByte g k) →
      decodeFrame f = decodeFrame g)
  ∧ ∀ (f : Frame) (i : Instr), decodeFrame f = .ok i → i.opcode = frameByte f 0 ∧ i.wellFormed = true

/-- R101, R102: what the frames of the seven device operations decode to, operand by operand; a boolean operand is true
for every byte but 0. -/
def Obligations.DeviceFramesCarryTheirOperands : Prop :=
  ∀ f : Frame,
    (frameByte f 0 = 0x10 → decodeFrame f = .ok .getTime)
    ∧ (frameByte f 0 = 0x11 → decodeFrame f = .ok (.setTime
        { second := (frameByte f 1).toNat, minute := (frameByte f 2).toNat, hour := (frameByte f 3).toNat,
          weekday := (frameByte f 4).toNat, mday := (frameByte f 5).toNat, month := (frameByte f 6).toNat,
          year := (frameByte f 7).toNat }))
    ∧ (frameByte f 0 = 0x12 → decodeFrame f = .ok .getAlarm)
    ∧ (frameByte f 0 = 0x13 → decodeFrame f = .ok (.setAlarm
        { minute := (frameByte f 1).toNat, hour := (frameByte f 2).toNat, day := (frameByte f 3).toNat,
          enabled := decide (frameByte f 4 ≠ 0) }))
    ∧ (frameByte f 0 = 0x14 → decodeFrame f = .ok (.alarmEn (decide (frameByte f 1 ≠ 0))))
    ∧ (frameByte f 0 = 0x15 → decodeFrame f = .ok .init)
    ∧ (frameByte f 0 = 0x16 → decodeFrame f = .ok .shutdown)

/-- R244: a frame whose opcode is none of the fourteen gives UnsupportedCommand before any check of the phase but
`destroyed`, and changes nothing but the result. -/
def Obligations.UnknownOpcodeIsUnsupported : Prop :=
  ∀ (s : State) (f : Frame) (rest : List Input), s.inputs = .issue f :: rest →
    (∀ i : Instr, i.opcode ≠ frameByte f 0) →
    step s = if s.destroyed then .refused .deviceDestroyed
      else .next { s with inputs := rest, result := some (.error .unsupportedCommand) }

/-- A step runs the decoded operation on the state whose schedule has moved past its frame, and a frame placed by
`withFetchWord` is run on the state itself; an operation that was called, or waited, is run with the operands it was
given (log entries 4 and 7). -/
def Obligations.StepRunsTheDecodedOperation : Prop :=
  (∀ (s : State) (f : Frame) (rest : List Input) (i : Instr), s.inputs = .issue f :: rest →
    decodeFrame f = .ok i → step s = exec i { s with inputs := rest })
  ∧ (∀ (s : State) (nbits w : Nat) (i : Instr), decodeTableWord nbits w = some i →
    step (s.withFetchWord nbits w) = exec i s)
  ∧ (∀ (s : State) (i : Instr) (rest : List Input), s.inputs = .call i :: rest →
    step s = exec i { s with inputs := rest })
  ∧ ∀ (s : State) (t : Turn) (rest : List Input), s.inputs = .turn t :: rest →
    step s = .next (State.takeTurn { s with inputs := rest } t)

/-- R105: the response frame has the status in `s0`, the results in R101's order after it, and 0 in every other
byte. -/
def Obligations.ResponseFrameLayout : Prop :=
  ∀ r : Result,
    frameByte (responseFrame r) 0 = (match r with
      | .ok _ => 0x00#8
      | .error (.transportError _) => 0x01#8
      | .error .invalidTimeValue => 0x02#8
      | .error .alarmUnsupported => 0x03#8
      | .error .unsupportedCommand => 0x04#8)
    ∧ ∀ k < 7, frameByte (responseFrame r) (k + 1) = (resultBytes r).getD k 0

/-! ## TimeCodec -/

/-- R131: BCD2BIN is opcode 0x01; it is 10 times the high nibble plus the low nibble for every byte, at most 165, and
changes nothing but the result. -/
def Obligations.Bcd2binIsTenHighPlusLow : Prop :=
  (∀ f : Frame, frameByte f 0 = 0x01 → decodeFrame f = .ok (.bcd2bin (frameByte f 1)))
  ∧ ∀ (b : Byte) (s : State),
    exec (.bcd2bin b) s
      = .next { s with result := some (.ok (.number (10 * (b.toNat / 16) + b.toNat % 16))) }
    ∧ 10 * (b.toNat / 16) + b.toNat % 16 ≤ 165

/-- R132: BIN2BCD is opcode 0x02; it reduces mod 100 and packs the two digits, and changes nothing but the result; below
100 BCD2BIN gives the number back. -/
def Obligations.Bin2bcdPacksTwoDigits : Prop :=
  (∀ f : Frame, frameByte f 0 = 0x02 → decodeFrame f = .ok (.bin2bcd (frameByte f 1).toNat))
  ∧ (∀ (v : Nat) (s : State),
    exec (.bin2bcd v) s
      = .next { s with result := some (.ok (.byte (BitVec.ofNat 8 (16 * (v % 100 / 10) + v % 100 % 10)))) })
  ∧ (∀ v : Nat, (bin2bcd v).toNat = 16 * (v % 100 / 10) + v % 100 % 10 ∧ (bin2bcd v).toNat ≤ 0x99)
  ∧ ∀ v < 100, bcd2bin (bin2bcd v) = v

/-- R137 with R135 and R136: which calendar times are valid. -/
def Obligations.ValidTimesAreTheCalendarDates : Prop :=
  ∀ t : CalendarTime, validTime t = true ↔
    t.second ≤ 59 ∧ t.minute ≤ 59 ∧ t.hour ≤ 23 ∧ t.weekday ≤ 6 ∧ 1 ≤ t.month ∧ t.month ≤ 12 ∧ t.year ≤ 99
    ∧ 1 ≤ t.mday
    ∧ t.mday ≤ (if t.month = 2 then (if t.year % 4 = 0 then 29 else 28)
        else if t.month = 4 ∨ t.month = 6 ∨ t.month = 9 ∨ t.month = 11 then 30 else 31)

/-- R134 and R135: the window of years, and that inside it every fourth year is the Gregorian leap year. (The spec
marks R135 as derived.) -/
def Obligations.CenturyWindowAndLeapYears : Prop :=
  ∀ y ≤ 99,
    fullYear y = (if y < 70 then 2000 + y else 1900 + y)
    ∧ 1970 ≤ fullYear y ∧ fullYear y ≤ 2069
    ∧ (leap y = true ↔ y % 4 = 0)
    ∧ fullYear y % 4 = y % 4
    ∧ (leap y = true ↔ fullYear y % 4 = 0 ∧ (fullYear y % 100 ≠ 0 ∨ fullYear y % 400 = 0))

/-- R138: DECODE is opcode 0x03; it masks and converts each byte, answers the fields where they are a valid date and
InvalidTimeValue where they are not, and changes nothing but the result. -/
def Obligations.DecodeAnswersValidFieldsOnly : Prop :=
  (∀ f : Frame, frameByte f 0 = 0x03 → decodeFrame f = .ok (.decode ⟨frameByte f 1, frameByte f 2, frameByte f 3,
      frameByte f 4, frameByte f 5, frameByte f 6, frameByte f 7⟩))
  ∧ ∀ (r : TimeImage) (s : State),
    let digits := fun (b : Byte) (m : Nat) => 10 * (b.toNat % m / 16) + b.toNat % 16
    let t : CalendarTime :=
      { second := digits r.sec 128, minute := digits r.min 128, hour := digits r.hour 64,
        weekday := digits r.wday 128, mday := digits r.mday 64, month := digits r.month 32,
        year := digits r.year 256 }
    exec (.decode r) s
      = .next { s with result := some (if validTime t then .ok (.time t) else .error .invalidTimeValue) }

/-- R139: ENCODE is opcode 0x04; it packs each field mod 100 for any seven numbers, never an error, and changes nothing
but the result. -/
def Obligations.EncodePacksEveryField : Prop :=
  (∀ f : Frame, frameByte f 0 = 0x04 → decodeFrame f = .ok (.encode ⟨(frameByte f 1).toNat, (frameByte f 2).toNat,
      (frameByte f 3).toNat, (frameByte f 4).toNat, (frameByte f 5).toNat, (frameByte f 6).toNat,
      (frameByte f 7).toNat⟩))
  ∧ ∀ (t : CalendarTime) (s : State),
    let pack := fun (v : Nat) => BitVec.ofNat 8 (16 * (v % 100 / 10) + v % 100 % 10)
    exec (.encode t) s
      = .next { s with result := some (.ok (.image ⟨pack t.second, pack t.minute, pack t.hour, pack t.weekday,
          pack t.mday, pack t.month, pack t.year⟩)) }

/-- R140: ENCODE then DECODE gives a valid time back in all seven fields, and in general the year mod 100. (The spec
marks R140 as derived.) -/
def Obligations.EncodeThenDecodeReturnsTheTime : Prop :=
  ∀ t : CalendarTime,
    (validTime t = true → decodeImage (encodeImage t) = some t)
    ∧ (validSupplied t = true →
        decodeImage (encodeImage t) = some { t with year := t.year % 100 }
        ∧ 1970 ≤ fullYear (t.year % 100) ∧ fullYear (t.year % 100) ≤ 2069)

/-- R141: DECODE then ENCODE clears the bits outside the masks of an image of decimal nibbles. (The spec marks R141 as
derived.) -/
def Obligations.DecodeThenEncodeClearsOutsideTheMasks : Prop :=
  ∀ (r : TimeImage) (t : CalendarTime), decodeImage r = some t →
    (∀ b ∈ imageBytes ⟨r.sec &&& 0x7F, r.min &&& 0x7F, r.hour &&& 0x3F, r.wday &&& 0x7F, r.mday &&& 0x3F,
        r.month &&& 0x1F, r.year⟩, b.toNat / 16 ≤ 9 ∧ b.toNat % 16 ≤ 9) →
    encodeImage t = ⟨r.sec &&& 0x7F, r.min &&& 0x7F, r.hour &&& 0x3F, r.wday &&& 0x7F, r.mday &&& 0x3F,
        r.month &&& 0x1F, r.year⟩

/-- R144: every field of a decoded time is inside its range. (The spec marks R144 as derived.) -/
def Obligations.DecodedTimesAreInRange : Prop :=
  ∀ (r : TimeImage) (t : CalendarTime), decodeImage r = some t →
    t.second ≤ 59 ∧ t.minute ≤ 59 ∧ t.hour ≤ 23 ∧ 1 ≤ t.mday ∧ t.mday ≤ 31 ∧ 1 ≤ t.month ∧ t.month ≤ 12
    ∧ t.year ≤ 99 ∧ t.weekday ≤ 6 ∧ t.mday ≤ daysInMonth t.month t.year

/-! ## StatusRegisters -/

/-- R162 to R164: BTST, BSET and BCLR are opcodes 0x08 to 0x0A; what they compute bit by bit, their laws, and that they
change nothing but the result. -/
def Obligations.BitAccessorsActOnTheMask : Prop :=
  (∀ f : Frame,
    (frameByte f 0 = 0x08 → decodeFrame f = .ok (.btst (frameByte f 1) (frameByte f 2)))
    ∧ (frameByte f 0 = 0x09 → decodeFrame f = .ok (.bset (frameByte f 1) (frameByte f 2)))
    ∧ (frameByte f 0 = 0x0A → decodeFrame f = .ok (.bclr (frameByte f 1) (frameByte f 2))))
  ∧ ∀ (b m : Byte) (s : State),
    exec (.btst b m) s = .next { s with result := some (.ok (.bool (btst b m))) }
    ∧ (btst b m = true ↔ ∃ i < 8, b.getLsbD i = true ∧ m.getLsbD i = true)
    ∧ btst b 0 = false
    ∧ exec (.bset b m) s = .next { s with result := some (.ok (.byte (bset b m))) }
    ∧ (∀ i < 8, (bset b m).getLsbD i = (b.getLsbD i || m.getLsbD i))
    ∧ bset (bset b m) m = bset b m
    ∧ exec (.bclr b m) s = .next { s with result := some (.ok (.byte (bclr b m))) }
    ∧ (∀ i < 8, (bclr b m).getLsbD i = (b.getLsbD i && !m.getLsbD i))
    ∧ bclr (bclr b m) m = bclr b m
    ∧ btst (bclr b m) m = false
    ∧ (m ≠ 0 → btst (bset b m) m = true)

/-! ## Admission and errors -/

/-- R210: which operations are admitted in which phase. -/
def Obligations.AdmissionByPhase : Prop :=
  (∀ s : State, s.phase = if s.destroyed then .destroyed else if s.pstate = .unarmed then .fresh else .live)
  ∧ (∀ (i : Instr) (s : State), isPure i = true → ∃ t, exec i s = .next t)
  ∧ (∀ s : State,
      (s.phase = .fresh → ∃ t, exec .init s = .next t)
      ∧ (s.phase = .live → exec .init s = .refused .alreadyInitialised)
      ∧ (s.phase = .destroyed → exec .init s = .refused .deviceDestroyed))
  ∧ (∀ (i : Instr) (s : State), isLiveIo i = true →
      (s.phase = .fresh → exec i s = .refused .notInitialised)
      ∧ (s.phase = .live → ∃ t, exec i s = .next t)
      ∧ (s.phase = .destroyed → exec i s = .refused .deviceDestroyed))
  ∧ (∀ s : State,
      (s.phase ≠ .destroyed → ∃ t, exec .shutdown s = .next t)
      ∧ (s.phase = .destroyed → exec .shutdown s = .refused .deviceDestroyed))
  ∧ (∀ (s : State) (f : Frame) (rest : List Input), s.inputs = .issue f :: rest →
      (∀ i : Instr, i.opcode ≠ frameByte f 0) →
      (s.phase ≠ .destroyed → ∃ t, step s = .next t ∧ t.result = some (.error .unsupportedCommand))
      ∧ (s.phase = .destroyed → step s = .refused .deviceDestroyed))

/-- R243: on a device without an interrupt line the three alarm operations return AlarmUnsupported, before the range
check and before any transaction. -/
def Obligations.AlarmUnsupportedWithoutALine : Prop :=
  ∀ (i : Instr) (s : State), (i = .getAlarm ∨ (∃ a, i = .setAlarm a) ∨ ∃ e, i = .alarmEn e) →
    s.phase = .live → s.params.hasIrq = false →
    exec i s = .next { s with result := some (.error .alarmUnsupported) }

/-- R180, R212, R242, R245: supplied values out of range give InvalidTimeValue and change nothing but the result. -/
def Obligations.SuppliedValuesOutOfRangeChangeNothing : Prop :=
  (∀ (t : CalendarTime) (s : State), s.phase = .live → validTime { t with year := t.year % 100 } = false →
    exec (.setTime t) s = .next { s with result := some (.error .invalidTimeValue) })
  ∧ ∀ (a : AlarmSpec) (s : State), s.phase = .live → s.params.hasIrq = true →
    (59 < a.minute ∨ 23 < a.hour ∨ 31 < a.day) →
    exec (.setAlarm a) s = .next { s with result := some (.error .invalidTimeValue) }

/-- R75, R76. With the lock free, as it is between the steps of every run: an operation that performs I/O runs its whole
body with the lock held by the Foreground, and then frees it; so does the critical section of SHUTDOWN, and a pass with
the lock held by the Deferred. With the lock held by another: the operation waits, still to run with the operands it was
given, and a pass stays due; nothing else changes. IRQ neither takes the lock nor minds it. (How one that waits is held
is the model's choice, log entry 7; that no step of a run ends with the lock held is the invariant's, log entry 6.) -/
def Obligations.OperationsHoldTheLockOrWaitForIt : Prop :=
  (∀ (i : Instr) (body : State → State) (s : State),
    (i = .getTime ∧ body = State.getTimeBody ∧ s.phase = .live
      ∨ (∃ t, i = .setTime t ∧ body = State.setTimeBody t ∧ validSupplied t = true) ∧ s.phase = .live
      ∨ (i = .getAlarm ∧ body = State.getAlarmBody
          ∨ (∃ a, i = .setAlarm a ∧ body = State.setAlarmBody a ∧ validAlarm a = true)
          ∨ ∃ e, i = .alarmEn e ∧ body = State.alarmEnBody e) ∧ s.phase = .live ∧ s.params.hasIrq = true
      ∨ i = .init ∧ body = State.initBody ∧ s.phase = .fresh) →
    (s.lock = .free →
      exec i s = .next { body { s with lock := .foreground } with lock := .free }
      ∧ (body { s with lock := .foreground }).lock = .foreground
      ∧ (body { s with lock := .foreground }).inputs = s.inputs)
    ∧ (s.lock ≠ .free → exec i s = .next { s with inputs := .call i :: s.inputs }))
  ∧ (∀ s : State, s.phase ≠ .destroyed →
    (s.lock = .free →
      (State.maskLine { s with lock := .foreground }).lock = .foreground
      ∧ ∃ u, exec .shutdown s = .next u ∧ u.lock = .free
        ∧ u = ((State.settleTask { State.maskLine { s with lock := .foreground } with lock := .free }).setDestroyed).succeed
            .none)
    ∧ (s.lock ≠ .free → exec .shutdown s = .next { s with inputs := .call .shutdown :: s.inputs }))
  ∧ (∀ (s : State) (rest : List Input), s.pstate = .handling → s.destroyed = false → s.inputs = .turn .drain :: rest →
    (s.lock = .free →
      let held := State.drainFlags { s with inputs := rest, lock := .deferred }
      held.lock = .deferred ∧ held.inputs = rest ∧ step s = .next { held.rearm with lock := .free })
    ∧ (s.lock ≠ .free → step s = .next s))
  ∧ ∀ (s : State) (l : Lock), State.takeInterrupt { s with lock := l } = { s.takeInterrupt with lock := l }

/-! ## RtcDevice -/

/-- R211: GETTIME is opcode 0x10; it is one 7-byte read, decoded, or TransportError; the steps of other agents before
the read happen, and nothing else changes but the result and the trace. -/
def Obligations.GetTimeReadsOneBlock : Prop :=
  (∀ f : Frame, frameByte f 0 = 0x10 → decodeFrame f = .ok .getTime)
  ∧ ∀ s : State, s.phase = .live → s.lock = .free →
    let u := s.envSteps (s.choiceAt 0).steps
    let left := s.skipChoices 1
    exec .getTime s = .next (match (s.choiceAt 0).outcome with
      | .ok => { u with
          choices := left.choices
          drawCount := left.drawCount
          trace := s.trace ++ [⟨txRead 0x10 7, imageBytes (Memory.timeImage u.regs), true⟩]
          result := some (match decodeImage (Memory.timeImage u.regs) with
            | some t => .ok (.time t)
            | none => .error .invalidTimeValue) }
      | .fails _ => { u with
          choices := left.choices
          drawCount := left.drawCount
          trace := s.trace ++ [⟨txRead 0x10 7, [], false⟩]
          result := some (.error (.transportError (txRead 0x10 7))) })

/-- R212, where no transaction fails: whatever other agents do between the transactions, SETTIME leaves the encoded
image in the time registers and STOP clear, every other Control bit as found and the cache equal to Control. (That the
Peripheral leaves the time registers alone while STOP is set, also in P-OSC, rests on log entry 10.) -/
def Obligations.SetTimeStoresTheTime : Prop :=
  ∀ (t : CalendarTime) (s : State), s.phase = .live → s.lock = .free → validSupplied t = true → s.allSucceed 5 →
    ∃ u, exec (.setTime t) s = .next u
      ∧ u.result = some (.ok .none)
      ∧ Memory.timeImage u.regs = encodeImage t
      ∧ u.x 0x1F = s.x 0x1F &&& ~~~0x40#8
      ∧ u.cache = u.x 0x1F
      ∧ (∀ a, isTimeRegister a = false → a ≠ 0x1E → a ≠ 0x1F → u.x a = s.x a)
      ∧ (∀ k < 8, (s.x 0x1E).getLsbD k = true → (u.x 0x1E).getLsbD k = true)
      ∧ (s.undisturbed 5 → u.x 0x1E = s.x 0x1E)
      ∧ (∃ new, u.trace = s.trace ++ new
          ∧ new.map (·.info) = [txRead 0x1F 1, txWrite 0x1F 1, txWrite 0x10 7, txRead 0x1F 1, txWrite 0x1F 1])
      ∧ u.choices = (s.skipChoices 5).choices ∧ u.drawCount = (s.skipChoices 5).drawCount
      ∧ u.events = s.events ∧ u.lock = .free ∧ u.shutdown = s.shutdown ∧ u.destroyed = s.destroyed
      ∧ u.params = s.params ∧ u.inputs = s.inputs ∧ u.clean = s.clean ∧ u.synced = true
      ∧ (u.pstate = s.pstate ∨ s.pstate = .armed ∧ u.pstate = .handling)

/-- R215 with R212 and R308: once STOP is set by a successful first pair, SETTIME attempts to clear it in every case, and
reports the block write's failure if there is one, else the second pair's. The whole trace, and what Control and the cache
then hold: STOP clear only where the second pair succeeds, or its write fails and stores the byte all the same. -/
def Obligations.SetTimeFirstErrorWins : Prop :=
  ∀ (t : CalendarTime) (s : State), s.phase = .live → s.lock = .free → validSupplied t = true → s.allSucceed 2 →
    let c := s.x 0x1F
    let halted := c ||| 0x40#8
    let running := c &&& ~~~0x40#8
    ∃ u, exec (.setTime t) s = .next u
      ∧ u.result = some (
          if (s.choiceAt 2).outcome ≠ .ok then .error (.transportError (txWrite 0x10 7))
          else if (s.choiceAt 3).outcome ≠ .ok then .error (.transportError (txRead 0x1F 1))
          else if (s.choiceAt 4).outcome ≠ .ok then .error (.transportError (txWrite 0x1F 1))
          else .ok .none)
      ∧ u.trace = s.trace
          ++ [⟨txRead 0x1F 1, [c], true⟩, ⟨txWrite 0x1F 1, [halted], true⟩,
              ⟨txWrite 0x10 7, imageBytes (encodeImage t), decide ((s.choiceAt 2).outcome = .ok)⟩]
          ++ (if (s.choiceAt 3).outcome = .ok then
                [⟨txRead 0x1F 1, [halted], true⟩, ⟨txWrite 0x1F 1, [running], decide ((s.choiceAt 4).outcome = .ok)⟩]
              else [⟨txRead 0x1F 1, [], false⟩])
      ∧ (match (s.choiceAt 3).outcome, (s.choiceAt 4).outcome with
          | .fails _, _ => u.x 0x1F = halted ∧ u.cache = halted ∧ u.clean = s.clean
          | .ok, .ok => u.x 0x1F = running ∧ u.cache = running ∧ u.clean = s.clean
          | .ok, .fails stored =>
            u.x 0x1F = (if stored.getD 0 false then running else halted) ∧ u.cache = halted ∧ u.clean = false)
      ∧ (∀ a, isTimeRegister a = false → a ≠ 0x1E → a ≠ 0x1F → u.x a = s.x a)
      ∧ u.lock = .free ∧ u.synced = true ∧ u.events = s.events

/-- R212, R218: a failure in the first Control pair ends SETTIME at once, the cache as it was and the time registers as
the other agents leave them. -/
def Obligations.SetTimeFirstPairFailureStopsAtOnce : Prop :=
  ∀ (t : CalendarTime) (s : State), s.phase = .live → s.lock = .free → validSupplied t = true →
    ((s.choiceAt 0).outcome ≠ .ok →
      ∃ u, exec (.setTime t) s = .next u ∧ u.result = some (.error (.transportError (txRead 0x1F 1)))
        ∧ u.trace = s.trace ++ [⟨txRead 0x1F 1, [], false⟩]
        ∧ u.regs = (s.envSteps (s.stepsBefore 1)).regs ∧ u.cache = s.cache)
    ∧ ((s.choiceAt 0).outcome = .ok → (s.choiceAt 1).outcome ≠ .ok →
      ∃ u, exec (.setTime t) s = .next u ∧ u.result = some (.error (.transportError (txWrite 0x1F 1)))
        ∧ u.trace = s.trace ++ [⟨txRead 0x1F 1, [s.x 0x1F], true⟩, ⟨txWrite 0x1F 1, [s.x 0x1F ||| 0x40], false⟩]
        ∧ (u.x 0x1F = s.x 0x1F ∨ u.x 0x1F = s.x 0x1F ||| 0x40)
        ∧ (∀ a, a ≠ 0x1F → u.x a = (s.envSteps (s.stepsBefore 2)).x a) ∧ u.cache = s.cache)

/-- R212, R211: a SETTIME without failures and then a GETTIME give the time back, with the year mod 100, when the read
succeeds and no other agent steps just before it. (Rests on log entry 10, as SetTimeStoresTheTime.) -/
def Obligations.SetTimeThenGetTimeReturnsIt : Prop :=
  ∀ (t : CalendarTime) (s : State), s.phase = .live → s.lock = .free → validSupplied t = true → s.allSucceed 6 →
    (s.choiceAt 5).steps = [] →
    ∃ u v, exec (.setTime t) s = .next u ∧ exec .getTime u = .next v
      ∧ v.result = some (.ok (.time { t with year := t.year % 100 }))

/-- R213, R304: a fresh device, no failure and no other agent's step in between: what INIT returns and leaves. (The
spec marks R304 as derived.) -/
def Obligations.InitLeavesTheDeviceReady : Prop :=
  ∀ s : State, s.phase = .fresh → s.lock = .free → s.params.wf = true → s.allSucceed 6 → s.undisturbed 6 →
    let ext := s.x 0x1D
    let flag := s.x 0x1E
    let ctrl := s.x 0x1F
    let zero := flag &&& 0x3A ≠ 0
    ∃ u, exec .init s = .next u
      ∧ u.result = some (.ok (.bool (flag.getLsbD 1)))
      ∧ u.x 0x1D = ext &&& 0x2F ||| BitVec.setWidth 8 s.params.fselDefault <<< 6
      ∧ u.x s.params.rsv0Addr = s.params.rsv0Val ∧ u.x s.params.rsv1Addr = s.params.rsv1Val
      ∧ (if zero then u.x 0x1E = 0 ∧ u.x 0x1F = 0 ∧ u.cache = 0
         else u.x 0x1E = flag ∧ u.x 0x1F = ctrl ∧ u.cache = ctrl &&& 0x7C)
      ∧ (∀ a, a ≠ 0x1D → a ≠ 0x1E → a ≠ 0x1F → a ≠ s.params.rsv0Addr → a ≠ s.params.rsv1Addr → u.x a = s.x a)
      ∧ u.pstate = (if s.params.hasIrq then .armed else .disarmed)
      ∧ u.events = s.events ++ (if flag.getLsbD 1 then [.clockUnreliable] else [])
      ∧ (∃ new, u.trace = s.trace ++ new
          ∧ new.map (·.info) = [txWrite s.params.rsv0Addr 1, txWrite s.params.rsv1Addr 1, txRead 0x1D 3,
              txWrite 0x1D 1] ++ (if zero then [txWrite 0x1E 1, txWrite 0x1F 1] else []))
      ∧ u.clean = true ∧ (u.synced = true ↔ zero)
      ∧ u.lock = .free ∧ u.shutdown = s.shutdown ∧ u.destroyed = s.destroyed ∧ u.params = s.params
      ∧ u.inputs = s.inputs

/-- R213: INIT either returns OK and the pipeline is armed or disarmed by HAS_IRQ, or one of its transactions fails,
the last of its trace: then it returns TransportError, the device stays fresh, and INIT may be issued again. -/
def Obligations.InitSucceedsOrLeavesTheDeviceFresh : Prop :=
  ∀ s : State, s.phase = .fresh → s.lock = .free → ∃ u new, exec .init s = .next u ∧ u.trace = s.trace ++ new
    ∧ ((∃ b, u.result = some (.ok (.bool b)))
          ∧ u.pstate = (if s.params.hasIrq then .armed else .disarmed)
          ∧ (∀ x ∈ new, x.succeeded = true)
        ∨ ∃ before last, new = before ++ [last] ∧ (∀ x ∈ before, x.succeeded = true) ∧ last.succeeded = false
          ∧ u.result = some (.error (.transportError last.info)) ∧ u.phase = .fresh ∧ u.lock = .free
          ∧ (s.clean = false → u.clean = false))

/-- R214: SHUTDOWN is opcode 0x16; it masks the line, cancels or awaits a scheduled task, and destroys the device; it
issues no transaction of its own. (That the next choice's bit says whether the task is cancelled or awaited is the
model's form, log entry 16.) -/
def Obligations.ShutdownDestroysTheDevice : Prop :=
  (∀ f : Frame, frameByte f 0 = 0x16 → decodeFrame f = .ok .shutdown)
  ∧ ∀ s : State, s.destroyed = false → s.lock = .free →
    exec .shutdown s = .next (
      if s.pstate = .handling then
        if (s.choiceAt 0).awaitTask then
          { State.drainPass { s.skipChoices 1 with shutdown := true } with
              destroyed := true, result := some (.ok .none) }
        else { s.skipChoices 1 with
                shutdown := true, pstate := .disarmed, destroyed := true, result := some (.ok .none) }
      else { s with shutdown := true, pstate := .disarmed, destroyed := true, result := some (.ok .none) })
    ∧ ∃ t, exec .shutdown s = .next t
      ∧ t.shutdown = true ∧ t.pstate = .disarmed ∧ t.destroyed = true ∧ t.lock = .free ∧ t.cache = s.cache
      ∧ t.x 0x1F = s.x 0x1F

/-- R39, R43: `shutdown` and `destroyed` are one-way, and only SHUTDOWN sets them. -/
def Obligations.ShutdownIsOneWay : Prop :=
  ∀ s t : State, step s = .next t →
    (s.shutdown = true → t.shutdown = true) ∧ (s.destroyed = true → t.destroyed = true)
    ∧ (t.shutdown ≠ s.shutdown ∨ t.destroyed ≠ s.destroyed →
        s.nextOperation = some .shutdown)

/-- R43, R318: after `destroyed` no agent of the core takes a step: only a Peripheral step can change a register, and
only a pure operation the result. -/
def Obligations.DestroyedCoreTakesNoStep : Prop :=
  ∀ s t : State, s.destroyed = true → step s = .next t →
    t.cache = s.cache ∧ t.pstate = s.pstate ∧ t.lock = s.lock ∧ t.shutdown = s.shutdown ∧ t.events = s.events
    ∧ t.trace = s.trace ∧ t.params = s.params ∧ t.clean = s.clean ∧ t.synced = s.synced
    ∧ (t.regs = s.regs ∨ (∃ e, t.regs = (s.envStep e).regs) ∧ t.result = s.result)

/-! ## AlarmManager -/

/-- R184: GETALARM is opcode 0x12; it reads the alarm block and then Flag; `enabled` and `pending` go by the cache; a
failed read is TransportError at once; nothing else changes but the result and the trace. -/
def Obligations.GetAlarmReportsTheAlarm : Prop :=
  (∀ f : Frame, frameByte f 0 = 0x12 → decodeFrame f = .ok .getAlarm)
  ∧ ∀ s : State, s.phase = .live → s.params.hasIrq = true → s.lock = .free →
    let u := s.envSteps (s.stepsBefore 1)
    let v := s.envSteps (s.stepsBefore 2)
    let a0 := u.x 0x18
    let a1 := u.x 0x19
    let a2 := u.x 0x1A
    let f := v.x 0x1E
    let on := s.cache.getLsbD 3
    exec .getAlarm s = .next (match (s.choiceAt 0).outcome, (s.choiceAt 1).outcome with
      | .fails _, _ => { u with
          choices := (s.skipChoices 1).choices
          drawCount := (s.skipChoices 1).drawCount
          trace := s.trace ++ [⟨txRead 0x18 3, [], false⟩]
          result := some (.error (.transportError (txRead 0x18 3))) }
      | .ok, .fails _ => { v with
          choices := (s.skipChoices 2).choices
          drawCount := (s.skipChoices 2).drawCount
          trace := s.trace ++ [⟨txRead 0x18 3, [a0, a1, a2], true⟩, ⟨txRead 0x1E 1, [], false⟩]
          result := some (.error (.transportError (txRead 0x1E 1))) }
      | .ok, .ok => { v with
          choices := (s.skipChoices 2).choices
          drawCount := (s.skipChoices 2).drawCount
          trace := s.trace ++ [⟨txRead 0x18 3, [a0, a1, a2], true⟩, ⟨txRead 0x1E 1, [f], true⟩]
          result := some (.ok (.alarm
            { minute := bcd2bin (a0 &&& 0x7F)
              hour := bcd2bin (a1 &&& 0x3F)
              day := if a2.getLsbD 7 then 0 else bcd2bin (a2 &&& 0x3F)
              enabled := on } (f.getLsbD 3 && on))) })

/-- R185, where no transaction fails: whatever other agents do in between, SETALARM leaves the alarm bytes, day-of-month
mode and AIE as asked, and every other Extension and Control bit as it was (Control: as it was in the cache, where the
operation writes it). -/
def Obligations.SetAlarmProgramsTheAlarm : Prop :=
  ∀ (a : AlarmSpec) (s : State), s.phase = .live → s.params.hasIrq = true → s.lock = .free →
    a.minute ≤ 59 → a.hour ≤ 23 → a.day ≤ 31 → s.allSucceed 8 →
    let n := 6 + (if s.cache.getLsbD 3 then 1 else 0) + (if a.enabled then 1 else 0)
    ∃ u, exec (.setAlarm a) s = .next u
      ∧ u.result = some (.ok .none)
      ∧ u.x 0x18 = bin2bcd a.minute ∧ u.x 0x19 = bin2bcd a.hour
      ∧ u.x 0x1A = (if a.day = 0 then 0x80 else bin2bcd a.day)
      ∧ u.x 0x1D = s.x 0x1D ||| 0x08
      ∧ u.cache = (if a.enabled then s.cache ||| 0x08 else s.cache &&& ~~~0x08#8)
      ∧ u.x 0x1F = (if s.cache.getLsbD 3 = true ∨ a.enabled = true then u.cache else s.x 0x1F)
      ∧ (∀ r, mayStore s.params (.setAlarm a) r = false → isTimeRegister r = false → u.x r = s.x r)
      ∧ (s.undisturbed 8 → ∀ r, mayStore s.params (.setAlarm a) r = false → u.x r = s.x r)
      ∧ u.choices = (s.skipChoices n).choices ∧ u.drawCount = (s.skipChoices n).drawCount
      ∧ u.events = s.events ∧ u.lock = .free ∧ u.shutdown = s.shutdown ∧ u.destroyed = s.destroyed
      ∧ u.params = s.params ∧ u.inputs = s.inputs ∧ u.clean = s.clean
      ∧ (u.pstate = s.pstate ∨ s.pstate = .armed ∧ u.pstate = .handling)

/-- R185, where no transaction fails and no other agent steps in between: the whole trace of SETALARM, and the Flag
register, of which AF alone is cleared. -/
def Obligations.SetAlarmIssuesItsSixSteps : Prop :=
  ∀ (a : AlarmSpec) (s : State), s.phase = .live → s.params.hasIrq = true → s.lock = .free →
    a.minute ≤ 59 → a.hour ≤ 23 → a.day ≤ 31 → s.allSucceed 8 → s.undisturbed 8 →
    ∃ u, exec (.setAlarm a) s = .next u
      ∧ u.x 0x1E = s.x 0x1E &&& ~~~0x08#8
      ∧ u.trace = s.trace
          ++ (if s.cache.getLsbD 3 then [⟨txWrite 0x1F 1, [s.cache &&& ~~~0x08#8], true⟩] else [])
          ++ [⟨txWrite 0x18 2, [bin2bcd a.minute, bin2bcd a.hour], true⟩,
              ⟨txRead 0x1D 1, [s.x 0x1D], true⟩,
              ⟨txWrite 0x1D 1, [s.x 0x1D ||| 0x08], true⟩,
              ⟨txWrite 0x1A 1, [if a.day = 0 then 0x80 else bin2bcd a.day], true⟩,
              ⟨txRead 0x1E 1, [s.x 0x1E], true⟩,
              ⟨txWrite 0x1E 1, [s.x 0x1E &&& ~~~0x08#8], true⟩]
          ++ (if a.enabled then [⟨txWrite 0x1F 1, [s.cache ||| 0x08], true⟩] else [])

/-- R186, where no transaction fails: AF is cleared in the byte read and written back, and Control is written only if
the byte differs from the cache. -/
def Obligations.AlarmEnableWritesControlOnChange : Prop :=
  ∀ (e : Bool) (s : State), s.phase = .live → s.params.hasIrq = true → s.lock = .free → s.allSucceed 3 →
    let c := if e then s.cache ||| 0x08 else s.cache &&& ~~~0x08#8
    let f := (s.envSteps (s.stepsBefore 1)).x 0x1E
    ∃ u, exec (.alarmEn e) s = .next u
      ∧ u.result = some (.ok .none)
      ∧ u.cache = c
      ∧ u.x 0x1F = (if c = s.cache then s.x 0x1F else c)
      ∧ u.trace = s.trace ++ [⟨txRead 0x1E 1, [f], true⟩, ⟨txWrite 0x1E 1, [f &&& ~~~0x08#8], true⟩]
          ++ (if c = s.cache then [] else [⟨txWrite 0x1F 1, [c], true⟩])
      ∧ (s.undisturbed 3 → u.x 0x1E = s.x 0x1E &&& ~~~0x08#8)
      ∧ (∀ r, r ≠ 0x1E → r ≠ 0x1F → isTimeRegister r = false → u.x r = s.x r)
      ∧ (s.undisturbed 3 → ∀ r, r ≠ 0x1E → r ≠ 0x1F → u.x r = s.x r)
      ∧ u.events = s.events ∧ u.lock = .free ∧ u.shutdown = s.shutdown ∧ u.destroyed = s.destroyed
      ∧ u.params = s.params ∧ u.inputs = s.inputs ∧ u.clean = s.clean
      ∧ (u.pstate = s.pstate ∨ s.pstate = .armed ∧ u.pstate = .handling)

/-- R188: ALARMEN 1 twice, from AIE clear in the cache and with no failure, makes exactly one Control write, and each
call one Flag read and one Flag write. (The spec marks R188 as derived.) -/
def Obligations.EnablingTwiceWritesControlOnce : Prop :=
  ∀ s : State, s.phase = .live → s.params.hasIrq = true → s.lock = .free → s.allSucceed 5 →
    s.cache.getLsbD 3 = false →
    ∃ u v new, exec (.alarmEn true) s = .next u ∧ exec (.alarmEn true) u = .next v ∧ v.trace = s.trace ++ new
      ∧ (new.filter Transaction.isControlWrite).length = 1
      ∧ (new.filter (·.info == txRead 0x1E 1)).length = 2
      ∧ (new.filter (·.info == txWrite 0x1E 1)).length = 2

/-- R187, R218, R241, whatever other agents do in between: SETALARM and ALARMEN issue their transactions in the order of
R185 and R186 and end at the first one that fails, with TransportError naming it; without a failure they issue all and
return OK. The lock is free afterwards. -/
def Obligations.AlarmOperationsStopAtTheFirstFailure : Prop :=
  ∀ (i : Instr) (plan : List TxInfo) (s : State), s.phase = .live → s.params.hasIrq = true → s.lock = .free →
    ((∃ a, i = .setAlarm a ∧ validAlarm a = true
        ∧ plan = (if s.cache.getLsbD 3 then [txWrite 0x1F 1] else [])
          ++ [txWrite 0x18 2, txRead 0x1D 1, txWrite 0x1D 1, txWrite 0x1A 1, txRead 0x1E 1, txWrite 0x1E 1]
          ++ (if a.enabled then [txWrite 0x1F 1] else []))
      ∨ ∃ e, i = .alarmEn e
        ∧ plan = [txRead 0x1E 1, txWrite 0x1E 1] ++ (if s.cache.getLsbD 3 = e then [] else [txWrite 0x1F 1])) →
    ∃ u new, exec i s = .next u ∧ u.trace = s.trace ++ new
      ∧ new.map (·.info) = plan.take new.length
      ∧ (∀ k x, new[k]? = some x → (x.succeeded = true ↔ (s.choiceAt k).outcome = .ok))
      ∧ (new.length = plan.length ∧ (∀ x ∈ new, x.succeeded = true) ∧ u.result = some (.ok .none)
        ∨ ∃ before last, new = before ++ [last] ∧ (∀ x ∈ before, x.succeeded = true) ∧ last.succeeded = false
          ∧ u.result = some (.error (.transportError last.info)))
      ∧ u.lock = .free ∧ u.events = s.events ∧ u.shutdown = s.shutdown ∧ u.destroyed = s.destroyed
      ∧ (u.pstate = s.pstate ∨ s.pstate = .armed ∧ u.pstate = .handling)

/-! ## The interrupt and the pipeline -/

/-- R254 with R251: the IRQ step is enabled exactly when the pipeline is armed, the line asserted and the device alive;
it moves `pstate` to Handling and changes nothing else. (That the turn of a disabled IRQ is taken off the schedule and
changes nothing is the model's choice, log entry 8.) -/
def Obligations.InterruptEntryChangesOnlyTheSequencer : Prop :=
  ∀ (s : State) (rest : List Input), s.inputs = .turn (.env .irq) :: rest →
    let f := s.x 0x1E
    let c := s.x 0x1F
    step s = .next (
      if s.pstate = .armed ∧ s.destroyed = false
          ∧ (f.getLsbD 3 && c.getLsbD 3 || f.getLsbD 4 && c.getLsbD 4 || f.getLsbD 5 && c.getLsbD 5) = true
      then { s with inputs := rest, pstate := .handling } else { s with inputs := rest })

/-- R255, R256: one pass, on every path: Flag read once, the events of the bits found, TF, AF and UF cleared in the
byte written back once, failures reported as events, and the line re-armed unless shutdown is set. -/
def Obligations.PassDrainsTheFlagRegister : Prop :=
  ∀ (s : State) (rest : List Input), s.inputs = .turn .drain :: rest → s.pstate = .handling → s.destroyed = false →
    s.lock = .free →
    let u := s.envSteps (s.stepsBefore 1)
    let v := s.envSteps (s.stepsBefore 2)
    let f := u.x 0x1E
    let g := f &&& ~~~0x38#8
    let found := (if f.getLsbD 1 then [Event.clockUnreliable] else [])
      ++ (if f.getLsbD 4 then [Event.periodicTick] else [])
      ++ (if f.getLsbD 3 then [Event.alarmFired] else [])
      ++ (if f.getLsbD 5 then [Event.updateTick] else [])
    let after := if s.shutdown then PState.disarmed else PState.armed
    step s = .next (match (s.choiceAt 0).outcome, (s.choiceAt 1).outcome with
      | .fails _, _ => { u with
          inputs := rest
          choices := (s.skipChoices 1).choices
          drawCount := (s.skipChoices 1).drawCount
          events := s.events ++ [.passError .read]
          trace := s.trace ++ [⟨txRead 0x1E 1, [], false⟩]
          pstate := after }
      | .ok, .ok => { v with
          inputs := rest
          choices := (s.skipChoices 2).choices
          drawCount := (s.skipChoices 2).drawCount
          regs := Memory.set v.regs 0x1E g
          events := s.events ++ found
          trace := s.trace ++ [⟨txRead 0x1E 1, [f], true⟩, ⟨txWrite 0x1E 1, [g], true⟩]
          pstate := after }
      | .ok, .fails stored => { v with
          inputs := rest
          choices := (s.skipChoices 2).choices
          drawCount := (s.skipChoices 2).drawCount
          regs := if stored.getD 0 false then Memory.set v.regs 0x1E g else v.regs
          events := s.events ++ found ++ [.passError .write]
          trace := s.trace ++ [⟨txRead 0x1E 1, [f], true⟩, ⟨txWrite 0x1E 1, [g], false⟩]
          pstate := after })

/-- R260: (a) all three flags set, one pass raises exactly three events of the three kinds and makes exactly one Flag
write, which clears all three; (b) a failed Flag read raises none and re-arms; (c) in general as many as bits set.
(The spec marks R260 as derived.) -/
def Obligations.PassRaisesOneEventPerFlag : Prop :=
  ∀ (s : State) (rest : List Input), s.inputs = .turn .drain :: rest → s.pstate = .handling → s.destroyed = false →
    s.lock = .free →
    let f := (s.envSteps (s.stepsBefore 1)).x 0x1E
    let ofKinds := fun es : List Event => es.filter fun e => e == .periodicTick || e == .alarmFired || e == .updateTick
    ∃ t newEvents newTrace, step s = .next t ∧ t.events = s.events ++ newEvents ∧ t.trace = s.trace ++ newTrace
      ∧ ((s.choiceAt 0).outcome = .ok →
          (ofKinds newEvents).length
            = (if f.getLsbD 3 then 1 else 0) + (if f.getLsbD 4 then 1 else 0) + (if f.getLsbD 5 then 1 else 0)
          ∧ (ofKinds newEvents).Nodup
          ∧ (newTrace.filter (·.info == txWrite 0x1E 1)).length = 1)
      ∧ (f &&& 0x38 = 0x38 → s.allSucceed 2 → (ofKinds newEvents).length = 3 ∧ t.x 0x1E &&& 0x38 = 0)
      ∧ ((s.choiceAt 0).outcome ≠ .ok →
          ofKinds newEvents = [] ∧ t.pstate = (if s.shutdown then .disarmed else .armed))

/-- R305: a named flag that is clear in the Flag byte a read-modify-write reads, and that the Peripheral sets before the
write, is lost: the register shows it clear and no event is raised for it. (a) In a pass, (b) in ALARMEN, (c) in SETALARM
(where `f` is the byte its trace shows as read: every flag clear in it is clear afterwards, whatever was set in between).
In (b) and (c) no other agent steps before the Control write that may follow. (The spec marks R305 as derived.) -/
def Obligations.FlagSetInsideAReadModifyWriteIsLost : Prop :=
  (∀ (s : State) (rest : List Input) (flag : Nat × Event),
    flag ∈ [(1, .clockUnreliable), (3, .alarmFired), (4, .periodicTick), (5, .updateTick)] →
    s.inputs = .turn .drain :: rest → s.pstate = .handling → s.destroyed = false → s.lock = .free → s.allSucceed 2 →
    ((s.envSteps (s.stepsBefore 1)).x 0x1E).getLsbD flag.1 = false →
    ((s.envSteps (s.stepsBefore 2)).x 0x1E).getLsbD flag.1 = true →
    ∃ t new, step s = .next t ∧ (t.x 0x1E).getLsbD flag.1 = false ∧ t.events = s.events ++ new ∧ flag.2 ∉ new)
  ∧ (∀ (s : State) (e : Bool), ∀ k ∈ [1, 3, 4, 5],
    s.phase = .live → s.params.hasIrq = true → s.lock = .free → s.allSucceed 3 → (s.choiceAt 2).steps = [] →
    ((s.envSteps (s.stepsBefore 1)).x 0x1E).getLsbD k = false →
    ((s.envSteps (s.stepsBefore 2)).x 0x1E).getLsbD k = true →
    ∃ t, exec (.alarmEn e) s = .next t ∧ (t.x 0x1E).getLsbD k = false ∧ t.events = s.events)
  ∧ ∀ (s : State) (a : AlarmSpec), s.phase = .live → s.params.hasIrq = true → s.lock = .free → validAlarm a = true →
    s.allSucceed 8 → (s.choiceAt (if s.cache.getLsbD 3 then 7 else 6)).steps = [] →
    ∃ t new f, exec (.setAlarm a) s = .next t ∧ t.trace = s.trace ++ new
      ∧ new.filter (·.info == txRead 0x1E 1) = [⟨txRead 0x1E 1, [f], true⟩]
      ∧ (∀ k ∈ [1, 3, 4, 5], f.getLsbD k = false → (t.x 0x1E).getLsbD k = false)
      ∧ t.events = s.events

/-- R253 with R254: every step leaves `pstate` as it is or moves it along one of R253's transitions, made by that row's
step under that row's condition, as `sequencerMay` lists them; nothing leaves Disarmed. Armed to Handling is the IRQ step
with the line asserted, taken as a turn or before a transaction of an I/O operation: of the other agents' steps IRQ alone
moves `pstate`, and only in that state. -/
def Obligations.SequencerFollowsItsTransitions : Prop :=
  (∀ s t : State, step s = .next t → sequencerMay s t)
  ∧ ∀ (s : State) (e : EnvStep), (s.envStep e).pstate ≠ s.pstate ↔
    e = .irq ∧ s.pstate = .armed ∧ s.irqOut = true ∧ s.destroyed = false ∧ (s.envStep e).pstate = .handling

/-! ## The Peripheral -/

/-- R276, R277, R278: P-TIMER sets TF and P-UPDATE sets UF in every state, and change nothing else. A Peripheral step never
clears VLF, AF, TF or UF, leaves the unnamed Flag bits as stored, and writes no register but the time registers and Flag;
the core's side is untouched. With R271: P-OSC sets VLF in every state, alone or with the draw that may accompany it.
(That the draw has P-TIME's own condition, STOP clear, is log entry 10's; nothing is said of the time registers where STOP
is set.) -/
def Obligations.PeripheralSetsItsFlagsAndClearsNone : Prop :=
  (∀ s : State, s.envStep .pTimer = { s with regs := Memory.set s.regs 0x1E (s.x 0x1E ||| 0x10) })
  ∧ (∀ s : State, s.envStep .pUpdate = { s with regs := Memory.set s.regs 0x1E (s.x 0x1E ||| 0x20) })
  ∧ (∀ s : State, s.envStep (.pOsc none) = { s with regs := Memory.set s.regs 0x1E (s.x 0x1E ||| 0x02) })
  ∧ (∀ (s : State) (image : TimeImage),
    (s.envStep (.pOsc (some image))).x 0x1E = s.x 0x1E ||| 0x02
    ∧ ((s.x 0x1F).getLsbD 6 = false → Memory.timeImage (s.envStep (.pOsc (some image))).regs = image))
  ∧ ∀ (s : State) (e : EnvStep), e ≠ .irq →
    (∀ i < 8, (s.x 0x1E).getLsbD i = true → ((s.envStep e).x 0x1E).getLsbD i = true)
    ∧ (s.envStep e).x 0x1E &&& ~~~0x3A#8 = s.x 0x1E &&& ~~~0x3A#8
    ∧ (∀ a, isTimeRegister a = false → a ≠ 0x1E → (s.envStep e).x a = s.x a)
    ∧ s.envStep e = { s with regs := (s.envStep e).regs }

/-- R272: P-TIME happens only while STOP is clear; a draw stores the seven bytes drawn and nothing else. (A P-TIME
that may not happen leaves the state as it is: log entry 8.) -/
def Obligations.ClockAdvancesOnlyWhileStopIsClear : Prop :=
  ∀ (s : State) (image : TimeImage),
    ((s.x 0x1F).getLsbD 6 = true → s.envStep (.pTime image) = s)
    ∧ ((s.x 0x1F).getLsbD 6 = false → s.params.timeAdvance = .draw →
        Memory.timeImage (s.envStep (.pTime image)).regs = image
        ∧ ∀ a, isTimeRegister a = false → (s.envStep (.pTime image)).x a = s.x a)

/-- R273: under TIME_ADVANCE = calsucc and with STOP clear, P-TIME moves a valid time to its successor, one second
later, which is a valid time again, and draws where the image does not decode. (R273 is the spec's refinement from general
knowledge.) -/
def Obligations.CalendarSuccessorIsOneSecond : Prop :=
  (∀ (s : State) (image : TimeImage), (s.x 0x1F).getLsbD 6 = false → s.params.timeAdvance = .calsucc →
    match decodeImage (Memory.timeImage s.regs) with
    | some t => decodeImage (Memory.timeImage (s.envStep (.pTime image)).regs) = some (calendarSucc t)
        ∧ Memory.timeImage (s.envStep (.pTime image)).regs = encodeImage (calendarSucc t)
    | none => Memory.timeImage (s.envStep (.pTime image)).regs = image)
  ∧ ∀ t : CalendarTime, validTime t = true →
    validTime (calendarSucc t) = true
    ∧ calendarSucc t =
      (if t.second < 59 then { t with second := t.second + 1 }
       else if t.minute < 59 then { t with second := 0, minute := t.minute + 1 }
       else if t.hour < 23 then { t with second := 0, minute := 0, hour := t.hour + 1 }
       else if t.mday < daysInMonth t.month t.year then
         { t with second := 0, minute := 0, hour := 0, weekday := (t.weekday + 1) % 7, mday := t.mday + 1 }
       else if t.month < 12 then
         { t with second := 0, minute := 0, hour := 0, weekday := (t.weekday + 1) % 7, mday := 1,
                  month := t.month + 1 }
       else
         { t with second := 0, minute := 0, hour := 0, weekday := (t.weekday + 1) % 7, mday := 1, month := 1,
                  year := (t.year + 1) % 100 })

/-- R274, R275: P-ALARM sets AF exactly when minute, hour and day each match or are ignored, where in week-day mode the
day term is the draw; it changes nothing else. (That the turn of a P-ALARM without a match leaves the state as it is is
the model's choice, log entry 8.) -/
def Obligations.AlarmFiresOnTheMatch : Prop :=
  ∀ (s : State) (dayTerm : Bool),
    let mm := (s.x 0x18).getLsbD 7 = true ∨ s.x 0x18 &&& 0x7F = s.x 0x11 &&& 0x7F
    let hm := (s.x 0x19).getLsbD 7 = true ∨ s.x 0x19 &&& 0x3F = s.x 0x12 &&& 0x3F
    let dm := if (s.x 0x1D).getLsbD 3 = wadaMday then
        (s.x 0x1A).getLsbD 7 = true ∨ s.x 0x1A &&& 0x3F = s.x 0x14 &&& 0x3F
      else dayTerm = true
    (mm ∧ hm ∧ dm →
      s.envStep (.pAlarm dayTerm) = { s with regs := Memory.set s.regs 0x1E (s.x 0x1E ||| 0x08) })
    ∧ (¬(mm ∧ hm ∧ dm) → s.envStep (.pAlarm dayTerm) = s)

/-! ## The whole machine -/

/-- The invariant is kept by every step. (The spec marks R48 as derived; the canonical form is log entry 1's.) -/
def Obligations.StepKeepsTheInvariant : Prop :=
  ∀ s t : State, s.Inv → step s = .next t → t.Inv

/-- The invariant holds at reset, and after the reset of the core on whatever registers the Peripheral holds. (The
registers' contents at State.reset are log entry 1's, the parameters log entry 3's; the reset of the core is log entry
22's.) -/
def Obligations.ResetSatisfiesTheInvariant : Prop :=
  State.reset.Inv
  ∧ ∀ s : State, Memory.wf s.regs = true → s.params.wf = true → s.resetCore.Inv

/-- R301, R49: what reset leaves on the core's side, and that no operation that reads the cache is admitted there. The
reset of the core alone leaves the same on the core's side from every state, a destroyed one too, and the Peripheral keeps
every register (R49's last paragraph, R302); INIT is admitted again. (That the core's reset stands in the model as
`State.resetCore`, and what it keeps beside the registers, the parameters among it, is the model's choice, log entry 22.) -/
def Obligations.ResetLeavesTheCoreFresh : Prop :=
  (State.reset.pstate = .unarmed ∧ State.reset.shutdown = false ∧ State.reset.destroyed = false
    ∧ State.reset.lineEnabled = false ∧ State.reset.taskScheduled = false
    ∧ State.reset.lock = .free ∧ State.reset.events = [] ∧ State.reset.trace = []
    ∧ ∀ i : Instr, isLiveIo i = true → exec i State.reset = .refused .notInitialised)
  ∧ ∀ s : State,
    s.resetCore.pstate = .unarmed ∧ s.resetCore.shutdown = false ∧ s.resetCore.destroyed = false
    ∧ s.resetCore.lineEnabled = false ∧ s.resetCore.taskScheduled = false
    ∧ s.resetCore.lock = .free ∧ s.resetCore.events = [] ∧ s.resetCore.trace = []
    ∧ (∀ a : Addr, s.resetCore.x a = s.x a) ∧ s.resetCore.params = s.params
    ∧ (∀ i : Instr, isLiveIo i = true → exec i s.resetCore = .refused .notInitialised)
    ∧ ∃ t, exec .init s.resetCore = .next t ∧ t.result ≠ none

/-- R38, R82: after any operation but INIT the cache is the byte of the last Control write of its transactions that
succeeded, or what it was where there is none. -/
def Obligations.CacheFollowsControlWrites : Prop :=
  ∀ (i : Instr) (s t : State), i ≠ .init → exec i s = .next t →
    ∃ new, t.trace = s.trace ++ new ∧ t.cache = lastControlWrite s.cache new

/-- R62: every transaction of an operation is one that R62 lists for it, a pass reads and writes Flag only, and the
steps of the other agents issue none. (The spec marks R62 as derived.) -/
def Obligations.OnlyListedTransactionsAreIssued : Prop :=
  (∀ (i : Instr) (s t : State), exec i s = .next t →
    ∃ new, t.trace = s.trace ++ new ∧ ∀ x ∈ new, x.info ∈ listedTransactions s.params i)
  ∧ (∀ s : State, ∃ new, s.drain.trace = s.trace ++ new ∧ ∀ x ∈ new, x.info ∈ passTransactions)
  ∧ ∀ (s : State) (e : EnvStep), (s.envStep e).trace = s.trace

/-- R321: how many transactions each operation and each pass makes in a run without failures. (The spec marks R321 as
derived.) -/
def Obligations.TransactionCounts : Prop :=
  ∀ s : State, s.lock = .free → s.allSucceed 8 →
    (∀ (i : Instr) (t : State), isPure i = true → exec i s = .next t → t.trace = s.trace)
    ∧ (s.phase = .live → ∀ t, exec .getTime s = .next t → t.trace.length = s.trace.length + 1)
    ∧ (s.phase = .live → ∀ u t, validSupplied u = true → exec (.setTime u) s = .next t →
        t.trace.length = s.trace.length + 5)
    ∧ (s.phase = .live → s.params.hasIrq = true → ∀ t, exec .getAlarm s = .next t →
        t.trace.length = s.trace.length + 2)
    ∧ (s.phase = .live → s.params.hasIrq = true → ∀ a t, validAlarm a = true → exec (.setAlarm a) s = .next t →
        t.trace.length = s.trace.length + 6 + (if s.cache.getLsbD 3 then 1 else 0) + (if a.enabled then 1 else 0))
    ∧ (s.phase = .live → s.params.hasIrq = true → ∀ e t, exec (.alarmEn e) s = .next t →
        t.trace.length = s.trace.length + (if s.cache.getLsbD 3 = e then 2 else 3))
    ∧ (s.phase = .fresh → ∀ t, exec .init s = .next t →
        t.trace.length = s.trace.length + 4 ∨ t.trace.length = s.trace.length + 6)
    ∧ (s.pstate ≠ .handling → ∀ t, exec .shutdown s = .next t → t.trace = s.trace)
    ∧ (s.pstate = .handling → s.destroyed = false → s.drain.trace.length = s.trace.length + 2)
    ∧ s.takeInterrupt.trace = s.trace

/-- R51, R76, with no other agent stepping in between, on every path of success and failure: which registers and which
other state an operation leaves as they were. The stores of each form are at the addresses `storesIn` computes. (The
spec marks R51 as derived.) -/
def Obligations.OperationFrames : Prop :=
  ∀ (i : Instr) (s t : State), s.params.wf = true → s.undisturbed 8 → s.lock = .free → exec i s = .next t →
    (∀ a, storesIn s i a = false → t.x a = s.x a)
    ∧ (mayAssignCache i = false → t.cache = s.cache)
    ∧ (i ≠ .shutdown → t.shutdown = s.shutdown ∧ t.destroyed = s.destroyed)
    ∧ (i ≠ .shutdown → i ≠ .init → t.pstate = s.pstate ∧ t.events = s.events)
    ∧ (mayAssignCache i = false → t.clean = s.clean ∧ t.synced = s.synced)
    ∧ t.lock = .free ∧ t.params = s.params ∧ t.inputs = s.inputs

/-- R51, R278: on every path and whatever other agents do in between, an operation changes no register outside its own
stores, the time registers and Flag. (The spec marks R51 as derived.) -/
def Obligations.InterleavedOperationFrames : Prop :=
  ∀ (i : Instr) (s t : State), exec i s = .next t →
    (∀ a, mayStore s.params i a = false → isTimeRegister a = false → a ≠ 0x1E → t.x a = s.x a)
    ∧ t.params = s.params
    ∧ (∃ new, t.events = s.events ++ new)
    ∧ ∃ new, t.trace = s.trace ++ new

/-- R65, R68, R69, R187, R246: with no other agent stepping in between, the registers after an operation are exactly
what its transactions make of the registers before: no rollback, and nothing stored beside them. -/
def Obligations.RegistersAreWhatTheTraceStores : Prop :=
  ∀ (i : Instr) (s t : State), s.undisturbed 8 → exec i s = .next t →
    ∃ new, t.trace = s.trace ++ new ∧ Replays s.regs new t.regs

/-- R34, R317: only INIT clears VLF. (The spec marks R317 as derived.) -/
def Obligations.OnlyInitClearsVlf : Prop :=
  ∀ s t : State, step s = .next t →
    (s.x 0x1E).getLsbD 1 = true → (t.x 0x1E).getLsbD 1 = false →
    s.nextOperation = some .init

/-- R45, R85, R7: the event log and the trace only grow, and the parameters never change. -/
def Obligations.LogsOnlyGrow : Prop :=
  ∀ s t : State, step s = .next t →
    t.params = s.params ∧ (∃ new, t.events = s.events ++ new) ∧ ∃ new, t.trace = s.trace ++ new

/-! ## The port -/

/-- R63 to R66, R70, R72: what a successful transaction reads or stores, the bytes in ascending addresses, for every block
inside the address space (`inSpace`: a transaction on another block cannot be written, log entry 13). -/
def Obligations.TransactionsReadAndStoreAscending : Prop :=
  ∀ (s : State) (a : Addr),
    (s.choiceAt 0).outcome = .ok →
    (∀ (n : Nat) (h : inSpace a n),
      ∃ bs, (s.memRead a n h).1 = some bs ∧ bs.length = n ∧ (s.memRead a n h).2.regs = s.interleave.regs
        ∧ ∀ k < n, bs.getD k 0 = s.interleave.x (a + BitVec.ofNat 8 k))
    ∧ ∀ (vs : List Byte) (h : inSpace a vs.length),
      (s.memWrite a vs h).1 = true
      ∧ (∀ k < vs.length, (s.memWrite a vs h).2.x (a + BitVec.ofNat 8 k) = vs.getD k 0)
      ∧ ∀ b : Addr, b.toNat < a.toNat ∨ a.toNat + vs.length ≤ b.toNat →
        (s.memWrite a vs h).2.x b = s.interleave.x b

/-- R68, R69: a failed read gives no data and changes no register; a failed write leaves each addressed byte old or new,
a draw for each byte, and every other register alone. -/
def Obligations.FailedTransactionsLeaveOldOrNew : Prop :=
  ∀ (s : State) (a : Addr) (stored : List Bool), (s.choiceAt 0).outcome = .fails stored →
    (∀ (n : Nat) (h : inSpace a n),
      (s.memRead a n h).1 = none ∧ (s.memRead a n h).2.regs = s.interleave.regs)
    ∧ ∀ (vs : List Byte) (h : inSpace a vs.length),
      (s.memWrite a vs h).1 = false
      ∧ (∀ k < vs.length, (s.memWrite a vs h).2.x (a + BitVec.ofNat 8 k)
          = if stored.getD k false then vs.getD k 0 else s.interleave.x (a + BitVec.ofNat 8 k))
      ∧ ∀ b : Addr, b.toNat < a.toNat ∨ a.toNat + vs.length ≤ b.toNat →
        (s.memWrite a vs h).2.x b = s.interleave.x b

/-- The canonical form, the model's own (log entry 1), is one: two register spaces in it that read alike at every address are equal lists. -/
def Obligations.CanonicalRegisterSpacesAreEqual : Prop :=
  ∀ m n : Memory, Memory.wf m = true → Memory.wf n = true → (∀ a : Addr, Memory.get m a = Memory.get n a) → m = n
end

