-- ==== Sys2Proof/Laws/Memory.lean ====
section
/-! SUPPORT. What a read sees after a write, and that every memory operation keeps the canonical form. -/

namespace Sys2Proof.Machine

theorem Memory.read_erase_same (m : Memory) (a : Nat) : Memory.read (Memory.erase m a) a = blankByte := by
  induction m with
  | nil => rfl
  | cons c t ih =>
    obtain ⟨k, v⟩ := c
    by_cases h : k = a <;> simp_all [Memory.erase, Memory.read]

theorem Memory.read_erase_other (m : Memory) {a b : Nat} (h : b ≠ a) :
    Memory.read (Memory.erase m a) b = Memory.read m b := by
  induction m with
  | nil => rfl
  | cons c t ih =>
    obtain ⟨k, v⟩ := c
    by_cases hk : k = a
    · have : ¬ k = b := fun e => h (e ▸ hk)
      simp_all [Memory.erase, Memory.read]
    · simp_all [Memory.erase, Memory.read]

theorem Memory.read_insert_same (m : Memory) (a : Nat) (v : Byte) (h : ∀ c ∈ m, c.1 ≠ a) :
    Memory.read (Memory.insert m a v) a = v := by
  induction m with
  | nil => simp [Memory.insert, Memory.read]
  | cons c t ih =>
    obtain ⟨k, w⟩ := c
    have hk : k ≠ a := h (k, w) (by simp)
    have ht := ih fun c hc => h c (by simp [hc])
    by_cases hlt : a < k <;> simp [Memory.insert, Memory.read, hlt, hk, ht]

theorem Memory.read_insert_other (m : Memory) {a b : Nat} (v : Byte) (h : b ≠ a) :
    Memory.read (Memory.insert m a v) b = Memory.read m b := by
  have h' : a ≠ b := fun e => h e.symm
  induction m with
  | nil => simp [Memory.insert, Memory.read, h']
  | cons c t ih =>
    obtain ⟨k, w⟩ := c
    by_cases hlt : a < k <;> simp [Memory.insert, Memory.read, hlt, h', ih]

theorem Memory.mem_erase {m : Memory} {a : Nat} {c : Host.Cell} (h : c ∈ Memory.erase m a) : c.1 ≠ a := by
  simpa [Memory.erase] using (List.mem_filter.mp h).2

/-- A read after a write to the same address gives the byte written (20_memory.md R63, R65). -/
@[simp] theorem Memory.read_write_same (m : Memory) (a : Nat) (v : Byte) :
    Memory.read (Memory.write m a v) a = v := by
  unfold Memory.write
  split
  · next h => rw [Memory.read_erase_same, h]
  · exact Memory.read_insert_same _ _ _ fun c hc => Memory.mem_erase hc

/-- A write leaves every other address alone (R65). -/
theorem Memory.read_write_other (m : Memory) {a b : Nat} (v : Byte) (h : b ≠ a) :
    Memory.read (Memory.write m a v) b = Memory.read m b := by
  unfold Memory.write
  split
  · exact Memory.read_erase_other m h
  · rw [Memory.read_insert_other _ _ h, Memory.read_erase_other m h]

theorem Memory.read_write (m : Memory) (a b : Nat) (v : Byte) :
    Memory.read (Memory.write m a v) b = if b = a then v else Memory.read m b := by
  split
  · next h => rw [h, Memory.read_write_same]
  · next h => exact Memory.read_write_other m v h

/-- `x[a] <- v` and then `x[b]` (00_scope.md R10). -/
theorem Memory.get_set (m : Memory) (a b : Addr) (v : Byte) :
    Memory.get (Memory.set m a v) b = if b = a then v else Memory.get m b := by
  simp only [Memory.get, Memory.set, Memory.read_write, BitVec.toNat_inj]

/-- A block write changes no address outside the block (R66). -/
theorem Memory.read_writeBlock_other (vs : List Byte) (m : Memory) (a b : Nat) (h : b < a ∨ a + vs.length ≤ b) :
    Memory.read (Memory.writeBlock m a vs) b = Memory.read m b := by
  induction vs generalizing m a with
  | nil => rfl
  | cons v t ih =>
    rw [List.length_cons] at h
    rw [Memory.writeBlock, ih _ _ (by omega), Memory.read_write_other _ _ (by omega)]

/-- A block write stores its bytes in ascending addresses (R66). -/
theorem Memory.read_writeBlock_inside (vs : List Byte) (m : Memory) (a i : Nat) (h : i < vs.length) :
    Memory.read (Memory.writeBlock m a vs) (a + i) = vs[i] := by
  induction vs generalizing m a i with
  | nil => simp at h
  | cons v t ih =>
    cases i with
    | zero => rw [Memory.writeBlock, Memory.read_writeBlock_other _ _ _ _ (by omega)]; simp
    | succ j =>
      have := ih (Memory.write m a v) (a + 1) j (by simpa using h)
      rw [Memory.writeBlock, show a + (j + 1) = a + 1 + j by omega, this]; rfl

/-- A failed write changes no address outside its block (R69). -/
theorem Memory.read_writeSome_other (ks : List Bool) (vs : List Byte) (m : Memory) (a b : Nat)
    (h : b < a ∨ a + vs.length ≤ b) : Memory.read (Memory.writeSome m a ks vs) b = Memory.read m b := by
  induction vs generalizing ks m a with
  | nil => cases ks with
    | nil => rfl
    | cons k ks => cases k <;> rfl
  | cons v t ih =>
    rw [List.length_cons] at h
    cases ks with
    | nil => rfl
    | cons k ks =>
      cases k with
      | true => rw [Memory.writeSome, ih _ _ _ (by omega), Memory.read_write_other _ _ (by omega)]
      | false => rw [Memory.writeSome, ih _ _ _ (by omega)]

/-- A failed write leaves each addressed byte old or new (R69). -/
theorem Memory.read_writeSome_inside (ks : List Bool) (vs : List Byte) (m : Memory) (a i : Nat) (h : i < vs.length) :
    Memory.read (Memory.writeSome m a ks vs) (a + i) = if ks.getD i false then vs[i] else Memory.read m (a + i) := by
  induction vs generalizing ks m a i with
  | nil => simp at h
  | cons v t ih =>
    cases ks with
    | nil => simp [Memory.writeSome]
    | cons k ks =>
      cases i with
      | zero => cases k <;> simp [Memory.writeSome, Memory.read_writeSome_other]
      | succ j =>
        have hj : j < t.length := by simpa using h
        have e : a + (j + 1) = a + 1 + j := by omega
        cases k with
        | true =>
          have := ih ks (Memory.write m a v) (a + 1) j hj
          rw [Memory.writeSome, e, this, Memory.read_write_other _ _ (by omega)]; rfl
        | false =>
          have := ih ks m (a + 1) j hj
          rw [Memory.writeSome, e, this]; rfl

@[simp] theorem Memory.readBlock_length (m : Memory) (a n : Nat) : (Memory.readBlock m a n).length = n := by
  induction n generalizing a with
  | zero => rfl
  | succ k ih => simp [Memory.readBlock, ih]

/-! The canonical form. -/

theorem Memory.wfFrom_mono {lo hi : Nat} (h : lo ≤ hi) (m : Memory) (w : Memory.wfFrom hi m = true) :
    Memory.wfFrom lo m = true := by
  cases m with
  | nil => rfl
  | cons c t =>
    obtain ⟨k, v⟩ := c
    simp only [Memory.wfFrom, Bool.and_eq_true, decide_eq_true_eq] at w ⊢
    exact ⟨⟨⟨by omega, w.1.1.2⟩, w.1.2⟩, w.2⟩

theorem Memory.wfFrom_erase (m : Memory) (lo a : Nat) (w : Memory.wfFrom lo m = true) :
    Memory.wfFrom lo (Memory.erase m a) = true := by
  induction m generalizing lo with
  | nil => rfl
  | cons c t ih =>
    obtain ⟨k, v⟩ := c
    simp only [Memory.wfFrom, Bool.and_eq_true, decide_eq_true_eq] at w
    by_cases h : k = a
    · have e : Memory.erase ((k, v) :: t) a = Memory.erase t a := by simp [Memory.erase, h]
      rw [e]; exact Memory.wfFrom_mono (by omega) _ (ih _ w.2)
    · have e : Memory.erase ((k, v) :: t) a = (k, v) :: Memory.erase t a := by simp [Memory.erase, h]
      rw [e]
      simp only [Memory.wfFrom, Bool.and_eq_true, decide_eq_true_eq]
      exact ⟨w.1, ih _ w.2⟩

theorem Memory.wfFrom_insert (m : Memory) (lo a : Nat) (v : Byte) (w : Memory.wfFrom lo m = true) (hlo : lo ≤ a)
    (ha : a < 256) (hv : v ≠ blankByte) (hm : ∀ c ∈ m, c.1 ≠ a) : Memory.wfFrom lo (Memory.insert m a v) = true := by
  induction m generalizing lo with
  | nil => simp [Memory.insert, Memory.wfFrom, hlo, ha, hv]
  | cons c t ih =>
    obtain ⟨k, u⟩ := c
    have hk : k ≠ a := hm (k, u) (by simp)
    simp only [Memory.wfFrom, Bool.and_eq_true, decide_eq_true_eq] at w
    by_cases hlt : a < k
    · simp only [Memory.insert, hlt, if_true, Memory.wfFrom, Bool.and_eq_true, decide_eq_true_eq, bne_iff_ne]
      exact ⟨⟨⟨hlo, ha⟩, hv⟩, ⟨⟨by omega, w.1.1.2⟩, bne_iff_ne.mp w.1.2⟩, w.2⟩
    · simp only [Memory.insert, hlt, if_false, Memory.wfFrom, Bool.and_eq_true, decide_eq_true_eq]
      exact ⟨w.1, ih _ w.2 (by omega) fun c hc => hm c (by simp [hc])⟩

/-- A write inside the address space keeps the canonical form. -/
theorem Memory.wf_write (m : Memory) (a : Nat) (v : Byte) (ha : a < 256) (w : Memory.wf m = true) :
    Memory.wf (Memory.write m a v) = true := by
  unfold Memory.write
  split
  · exact Memory.wfFrom_erase m 0 a w
  · next h =>
    exact Memory.wfFrom_insert _ 0 a v (Memory.wfFrom_erase m 0 a w) (by omega) ha h fun c hc => Memory.mem_erase hc

/-- A register write keeps the canonical form. -/
theorem Memory.wf_set (m : Memory) (a : Addr) (v : Byte) (w : Memory.wf m = true) :
    Memory.wf (Memory.set m a v) = true := Memory.wf_write m _ v a.isLt w

/-- A block write inside the address space keeps the canonical form. -/
theorem Memory.wf_writeBlock (vs : List Byte) (m : Memory) (a : Nat) (ha : a + vs.length ≤ 256)
    (w : Memory.wf m = true) : Memory.wf (Memory.writeBlock m a vs) = true := by
  induction vs generalizing m a with
  | nil => exact w
  | cons v t ih =>
    rw [List.length_cons] at ha
    exact ih _ _ (by omega) (Memory.wf_write m a v (by omega) w)

/-- A failed write inside the address space keeps the canonical form. -/
theorem Memory.wf_writeSome (ks : List Bool) (vs : List Byte) (m : Memory) (a : Nat) (ha : a + vs.length ≤ 256)
    (w : Memory.wf m = true) : Memory.wf (Memory.writeSome m a ks vs) = true := by
  induction vs generalizing ks m a with
  | nil => cases ks with
    | nil => exact w
    | cons k ks => cases k <;> exact w
  | cons v t ih =>
    rw [List.length_cons] at ha
    cases ks with
    | nil => exact w
    | cons k ks =>
      cases k with
      | true => exact ih _ _ _ (by omega) (Memory.wf_write m a v (by omega) w)
      | false => exact ih _ _ _ (by omega) w

end Sys2Proof.Machine
end

