-- ==== Sys2Proof/Laws/State.lean ====
section
/-! SUPPORT. One lemma per field per update of the state, each true by `rfl`, so that no proof unfolds an update. -/

namespace Sys2Proof.Machine

section updates

variable (s : State)

@[simp] theorem State.setRegs_regs (m : Memory) : (s.setRegs m).regs = m := rfl
@[simp] theorem State.setRegs_cache (m : Memory) : (s.setRegs m).cache = s.cache := rfl
@[simp] theorem State.setRegs_shutdown (m : Memory) : (s.setRegs m).shutdown = s.shutdown := rfl
@[simp] theorem State.setRegs_pstate (m : Memory) : (s.setRegs m).pstate = s.pstate := rfl
@[simp] theorem State.setRegs_lock (m : Memory) : (s.setRegs m).lock = s.lock := rfl
@[simp] theorem State.setRegs_destroyed (m : Memory) : (s.setRegs m).destroyed = s.destroyed := rfl
@[simp] theorem State.setRegs_events (m : Memory) : (s.setRegs m).events = s.events := rfl
@[simp] theorem State.setRegs_trace (m : Memory) : (s.setRegs m).trace = s.trace := rfl
@[simp] theorem State.setRegs_clean (m : Memory) : (s.setRegs m).clean = s.clean := rfl
@[simp] theorem State.setRegs_synced (m : Memory) : (s.setRegs m).synced = s.synced := rfl
@[simp] theorem State.setRegs_params (m : Memory) : (s.setRegs m).params = s.params := rfl
@[simp] theorem State.setRegs_result (m : Memory) : (s.setRegs m).result = s.result := rfl
@[simp] theorem State.setRegs_inputs (m : Memory) : (s.setRegs m).inputs = s.inputs := rfl
@[simp] theorem State.setRegs_choices (m : Memory) : (s.setRegs m).choices = s.choices := rfl
@[simp] theorem State.setRegs_drawCount (m : Memory) : (s.setRegs m).drawCount = s.drawCount := rfl

@[simp] theorem State.setCache_regs (v : Byte) : (s.setCache v).regs = s.regs := rfl
@[simp] theorem State.setCache_cache (v : Byte) : (s.setCache v).cache = v := rfl
@[simp] theorem State.setCache_shutdown (v : Byte) : (s.setCache v).shutdown = s.shutdown := rfl
@[simp] theorem State.setCache_pstate (v : Byte) : (s.setCache v).pstate = s.pstate := rfl
@[simp] theorem State.setCache_lock (v : Byte) : (s.setCache v).lock = s.lock := rfl
@[simp] theorem State.setCache_destroyed (v : Byte) : (s.setCache v).destroyed = s.destroyed := rfl
@[simp] theorem State.setCache_events (v : Byte) : (s.setCache v).events = s.events := rfl
@[simp] theorem State.setCache_trace (v : Byte) : (s.setCache v).trace = s.trace := rfl
@[simp] theorem State.setCache_clean (v : Byte) : (s.setCache v).clean = s.clean := rfl
@[simp] theorem State.setCache_synced (v : Byte) : (s.setCache v).synced = s.synced := rfl
@[simp] theorem State.setCache_params (v : Byte) : (s.setCache v).params = s.params := rfl
@[simp] theorem State.setCache_result (v : Byte) : (s.setCache v).result = s.result := rfl
@[simp] theorem State.setCache_inputs (v : Byte) : (s.setCache v).inputs = s.inputs := rfl
@[simp] theorem State.setCache_choices (v : Byte) : (s.setCache v).choices = s.choices := rfl
@[simp] theorem State.setCache_drawCount (v : Byte) : (s.setCache v).drawCount = s.drawCount := rfl

@[simp] theorem State.setShutdown_regs : (s.setShutdown).regs = s.regs := rfl
@[simp] theorem State.setShutdown_cache : (s.setShutdown).cache = s.cache := rfl
@[simp] theorem State.setShutdown_shutdown : (s.setShutdown).shutdown = true := rfl
@[simp] theorem State.setShutdown_pstate : (s.setShutdown).pstate = s.pstate := rfl
@[simp] theorem State.setShutdown_lock : (s.setShutdown).lock = s.lock := rfl
@[simp] theorem State.setShutdown_destroyed : (s.setShutdown).destroyed = s.destroyed := rfl
@[simp] theorem State.setShutdown_events : (s.setShutdown).events = s.events := rfl
@[simp] theorem State.setShutdown_trace : (s.setShutdown).trace = s.trace := rfl
@[simp] theorem State.setShutdown_clean : (s.setShutdown).clean = s.clean := rfl
@[simp] theorem State.setShutdown_synced : (s.setShutdown).synced = s.synced := rfl
@[simp] theorem State.setShutdown_params : (s.setShutdown).params = s.params := rfl
@[simp] theorem State.setShutdown_result : (s.setShutdown).result = s.result := rfl
@[simp] theorem State.setShutdown_inputs : (s.setShutdown).inputs = s.inputs := rfl
@[simp] theorem State.setShutdown_choices : (s.setShutdown).choices = s.choices := rfl
@[simp] theorem State.setShutdown_drawCount : (s.setShutdown).drawCount = s.drawCount := rfl

@[simp] theorem State.setPState_regs (p : PState) : (s.setPState p).regs = s.regs := rfl
@[simp] theorem State.setPState_cache (p : PState) : (s.setPState p).cache = s.cache := rfl
@[simp] theorem State.setPState_shutdown (p : PState) : (s.setPState p).shutdown = s.shutdown := rfl
@[simp] theorem State.setPState_pstate (p : PState) : (s.setPState p).pstate = p := rfl
@[simp] theorem State.setPState_lock (p : PState) : (s.setPState p).lock = s.lock := rfl
@[simp] theorem State.setPState_destroyed (p : PState) : (s.setPState p).destroyed = s.destroyed := rfl
@[simp] theorem State.setPState_events (p : PState) : (s.setPState p).events = s.events := rfl
@[simp] theorem State.setPState_trace (p : PState) : (s.setPState p).trace = s.trace := rfl
@[simp] theorem State.setPState_clean (p : PState) : (s.setPState p).clean = s.clean := rfl
@[simp] theorem State.setPState_synced (p : PState) : (s.setPState p).synced = s.synced := rfl
@[simp] theorem State.setPState_params (p : PState) : (s.setPState p).params = s.params := rfl
@[simp] theorem State.setPState_result (p : PState) : (s.setPState p).result = s.result := rfl
@[simp] theorem State.setPState_inputs (p : PState) : (s.setPState p).inputs = s.inputs := rfl
@[simp] theorem State.setPState_choices (p : PState) : (s.setPState p).choices = s.choices := rfl
@[simp] theorem State.setPState_drawCount (p : PState) : (s.setPState p).drawCount = s.drawCount := rfl

@[simp] theorem State.setLock_regs (l : Lock) : (s.setLock l).regs = s.regs := rfl
@[simp] theorem State.setLock_cache (l : Lock) : (s.setLock l).cache = s.cache := rfl
@[simp] theorem State.setLock_shutdown (l : Lock) : (s.setLock l).shutdown = s.shutdown := rfl
@[simp] theorem State.setLock_pstate (l : Lock) : (s.setLock l).pstate = s.pstate := rfl
@[simp] theorem State.setLock_lock (l : Lock) : (s.setLock l).lock = l := rfl
@[simp] theorem State.setLock_destroyed (l : Lock) : (s.setLock l).destroyed = s.destroyed := rfl
@[simp] theorem State.setLock_events (l : Lock) : (s.setLock l).events = s.events := rfl
@[simp] theorem State.setLock_trace (l : Lock) : (s.setLock l).trace = s.trace := rfl
@[simp] theorem State.setLock_clean (l : Lock) : (s.setLock l).clean = s.clean := rfl
@[simp] theorem State.setLock_synced (l : Lock) : (s.setLock l).synced = s.synced := rfl
@[simp] theorem State.setLock_params (l : Lock) : (s.setLock l).params = s.params := rfl
@[simp] theorem State.setLock_result (l : Lock) : (s.setLock l).result = s.result := rfl
@[simp] theorem State.setLock_inputs (l : Lock) : (s.setLock l).inputs = s.inputs := rfl
@[simp] theorem State.setLock_choices (l : Lock) : (s.setLock l).choices = s.choices := rfl
@[simp] theorem State.setLock_drawCount (l : Lock) : (s.setLock l).drawCount = s.drawCount := rfl

@[simp] theorem State.setDestroyed_regs : (s.setDestroyed).regs = s.regs := rfl
@[simp] theorem State.setDestroyed_cache : (s.setDestroyed).cache = s.cache := rfl
@[simp] theorem State.setDestroyed_shutdown : (s.setDestroyed).shutdown = s.shutdown := rfl
@[simp] theorem State.setDestroyed_pstate : (s.setDestroyed).pstate = s.pstate := rfl
@[simp] theorem State.setDestroyed_lock : (s.setDestroyed).lock = s.lock := rfl
@[simp] theorem State.setDestroyed_destroyed : (s.setDestroyed).destroyed = true := rfl
@[simp] theorem State.setDestroyed_events : (s.setDestroyed).events = s.events := rfl
@[simp] theorem State.setDestroyed_trace : (s.setDestroyed).trace = s.trace := rfl
@[simp] theorem State.setDestroyed_clean : (s.setDestroyed).clean = s.clean := rfl
@[simp] theorem State.setDestroyed_synced : (s.setDestroyed).synced = s.synced := rfl
@[simp] theorem State.setDestroyed_params : (s.setDestroyed).params = s.params := rfl
@[simp] theorem State.setDestroyed_result : (s.setDestroyed).result = s.result := rfl
@[simp] theorem State.setDestroyed_inputs : (s.setDestroyed).inputs = s.inputs := rfl
@[simp] theorem State.setDestroyed_choices : (s.setDestroyed).choices = s.choices := rfl
@[simp] theorem State.setDestroyed_drawCount : (s.setDestroyed).drawCount = s.drawCount := rfl

@[simp] theorem State.emit_regs (es : List Event) : (s.emit es).regs = s.regs := rfl
@[simp] theorem State.emit_cache (es : List Event) : (s.emit es).cache = s.cache := rfl
@[simp] theorem State.emit_shutdown (es : List Event) : (s.emit es).shutdown = s.shutdown := rfl
@[simp] theorem State.emit_pstate (es : List Event) : (s.emit es).pstate = s.pstate := rfl
@[simp] theorem State.emit_lock (es : List Event) : (s.emit es).lock = s.lock := rfl
@[simp] theorem State.emit_destroyed (es : List Event) : (s.emit es).destroyed = s.destroyed := rfl
@[simp] theorem State.emit_events (es : List Event) : (s.emit es).events = s.events ++ es := rfl
@[simp] theorem State.emit_trace (es : List Event) : (s.emit es).trace = s.trace := rfl
@[simp] theorem State.emit_clean (es : List Event) : (s.emit es).clean = s.clean := rfl
@[simp] theorem State.emit_synced (es : List Event) : (s.emit es).synced = s.synced := rfl
@[simp] theorem State.emit_params (es : List Event) : (s.emit es).params = s.params := rfl
@[simp] theorem State.emit_result (es : List Event) : (s.emit es).result = s.result := rfl
@[simp] theorem State.emit_inputs (es : List Event) : (s.emit es).inputs = s.inputs := rfl
@[simp] theorem State.emit_choices (es : List Event) : (s.emit es).choices = s.choices := rfl
@[simp] theorem State.emit_drawCount (es : List Event) : (s.emit es).drawCount = s.drawCount := rfl

@[simp] theorem State.record_regs (t : Transaction) : (s.record t).regs = s.regs := rfl
@[simp] theorem State.record_cache (t : Transaction) : (s.record t).cache = s.cache := rfl
@[simp] theorem State.record_shutdown (t : Transaction) : (s.record t).shutdown = s.shutdown := rfl
@[simp] theorem State.record_pstate (t : Transaction) : (s.record t).pstate = s.pstate := rfl
@[simp] theorem State.record_lock (t : Transaction) : (s.record t).lock = s.lock := rfl
@[simp] theorem State.record_destroyed (t : Transaction) : (s.record t).destroyed = s.destroyed := rfl
@[simp] theorem State.record_events (t : Transaction) : (s.record t).events = s.events := rfl
@[simp] theorem State.record_trace (t : Transaction) : (s.record t).trace = s.trace ++ [t] := rfl
@[simp] theorem State.record_clean (t : Transaction) : (s.record t).clean = s.clean := rfl
@[simp] theorem State.record_synced (t : Transaction) : (s.record t).synced = s.synced := rfl
@[simp] theorem State.record_params (t : Transaction) : (s.record t).params = s.params := rfl
@[simp] theorem State.record_result (t : Transaction) : (s.record t).result = s.result := rfl
@[simp] theorem State.record_inputs (t : Transaction) : (s.record t).inputs = s.inputs := rfl
@[simp] theorem State.record_choices (t : Transaction) : (s.record t).choices = s.choices := rfl
@[simp] theorem State.record_drawCount (t : Transaction) : (s.record t).drawCount = s.drawCount := rfl

@[simp] theorem State.setClean_regs (b : Bool) : (s.setClean b).regs = s.regs := rfl
@[simp] theorem State.setClean_cache (b : Bool) : (s.setClean b).cache = s.cache := rfl
@[simp] theorem State.setClean_shutdown (b : Bool) : (s.setClean b).shutdown = s.shutdown := rfl
@[simp] theorem State.setClean_pstate (b : Bool) : (s.setClean b).pstate = s.pstate := rfl
@[simp] theorem State.setClean_lock (b : Bool) : (s.setClean b).lock = s.lock := rfl
@[simp] theorem State.setClean_destroyed (b : Bool) : (s.setClean b).destroyed = s.destroyed := rfl
@[simp] theorem State.setClean_events (b : Bool) : (s.setClean b).events = s.events := rfl
@[simp] theorem State.setClean_trace (b : Bool) : (s.setClean b).trace = s.trace := rfl
@[simp] theorem State.setClean_clean (b : Bool) : (s.setClean b).clean = b := rfl
@[simp] theorem State.setClean_synced (b : Bool) : (s.setClean b).synced = s.synced := rfl
@[simp] theorem State.setClean_params (b : Bool) : (s.setClean b).params = s.params := rfl
@[simp] theorem State.setClean_result (b : Bool) : (s.setClean b).result = s.result := rfl
@[simp] theorem State.setClean_inputs (b : Bool) : (s.setClean b).inputs = s.inputs := rfl
@[simp] theorem State.setClean_choices (b : Bool) : (s.setClean b).choices = s.choices := rfl
@[simp] theorem State.setClean_drawCount (b : Bool) : (s.setClean b).drawCount = s.drawCount := rfl

@[simp] theorem State.setSynced_regs (b : Bool) : (s.setSynced b).regs = s.regs := rfl
@[simp] theorem State.setSynced_cache (b : Bool) : (s.setSynced b).cache = s.cache := rfl
@[simp] theorem State.setSynced_shutdown (b : Bool) : (s.setSynced b).shutdown = s.shutdown := rfl
@[simp] theorem State.setSynced_pstate (b : Bool) : (s.setSynced b).pstate = s.pstate := rfl
@[simp] theorem State.setSynced_lock (b : Bool) : (s.setSynced b).lock = s.lock := rfl
@[simp] theorem State.setSynced_destroyed (b : Bool) : (s.setSynced b).destroyed = s.destroyed := rfl
@[simp] theorem State.setSynced_events (b : Bool) : (s.setSynced b).events = s.events := rfl
@[simp] theorem State.setSynced_trace (b : Bool) : (s.setSynced b).trace = s.trace := rfl
@[simp] theorem State.setSynced_clean (b : Bool) : (s.setSynced b).clean = s.clean := rfl
@[simp] theorem State.setSynced_synced (b : Bool) : (s.setSynced b).synced = b := rfl
@[simp] theorem State.setSynced_params (b : Bool) : (s.setSynced b).params = s.params := rfl
@[simp] theorem State.setSynced_result (b : Bool) : (s.setSynced b).result = s.result := rfl
@[simp] theorem State.setSynced_inputs (b : Bool) : (s.setSynced b).inputs = s.inputs := rfl
@[simp] theorem State.setSynced_choices (b : Bool) : (s.setSynced b).choices = s.choices := rfl
@[simp] theorem State.setSynced_drawCount (b : Bool) : (s.setSynced b).drawCount = s.drawCount := rfl

@[simp] theorem State.setResult_regs (r : Result) : (s.setResult r).regs = s.regs := rfl
@[simp] theorem State.setResult_cache (r : Result) : (s.setResult r).cache = s.cache := rfl
@[simp] theorem State.setResult_shutdown (r : Result) : (s.setResult r).shutdown = s.shutdown := rfl
@[simp] theorem State.setResult_pstate (r : Result) : (s.setResult r).pstate = s.pstate := rfl
@[simp] theorem State.setResult_lock (r : Result) : (s.setResult r).lock = s.lock := rfl
@[simp] theorem State.setResult_destroyed (r : Result) : (s.setResult r).destroyed = s.destroyed := rfl
@[simp] theorem State.setResult_events (r : Result) : (s.setResult r).events = s.events := rfl
@[simp] theorem State.setResult_trace (r : Result) : (s.setResult r).trace = s.trace := rfl
@[simp] theorem State.setResult_clean (r : Result) : (s.setResult r).clean = s.clean := rfl
@[simp] theorem State.setResult_synced (r : Result) : (s.setResult r).synced = s.synced := rfl
@[simp] theorem State.setResult_params (r : Result) : (s.setResult r).params = s.params := rfl
@[simp] theorem State.setResult_result (r : Result) : (s.setResult r).result = some r := rfl
@[simp] theorem State.setResult_inputs (r : Result) : (s.setResult r).inputs = s.inputs := rfl
@[simp] theorem State.setResult_choices (r : Result) : (s.setResult r).choices = s.choices := rfl
@[simp] theorem State.setResult_drawCount (r : Result) : (s.setResult r).drawCount = s.drawCount := rfl

@[simp] theorem State.setInputs_regs (l : List Input) : (s.setInputs l).regs = s.regs := rfl
@[simp] theorem State.setInputs_cache (l : List Input) : (s.setInputs l).cache = s.cache := rfl
@[simp] theorem State.setInputs_shutdown (l : List Input) : (s.setInputs l).shutdown = s.shutdown := rfl
@[simp] theorem State.setInputs_pstate (l : List Input) : (s.setInputs l).pstate = s.pstate := rfl
@[simp] theorem State.setInputs_lock (l : List Input) : (s.setInputs l).lock = s.lock := rfl
@[simp] theorem State.setInputs_destroyed (l : List Input) : (s.setInputs l).destroyed = s.destroyed := rfl
@[simp] theorem State.setInputs_events (l : List Input) : (s.setInputs l).events = s.events := rfl
@[simp] theorem State.setInputs_trace (l : List Input) : (s.setInputs l).trace = s.trace := rfl
@[simp] theorem State.setInputs_clean (l : List Input) : (s.setInputs l).clean = s.clean := rfl
@[simp] theorem State.setInputs_synced (l : List Input) : (s.setInputs l).synced = s.synced := rfl
@[simp] theorem State.setInputs_params (l : List Input) : (s.setInputs l).params = s.params := rfl
@[simp] theorem State.setInputs_result (l : List Input) : (s.setInputs l).result = s.result := rfl
@[simp] theorem State.setInputs_inputs (l : List Input) : (s.setInputs l).inputs = l := rfl
@[simp] theorem State.setInputs_choices (l : List Input) : (s.setInputs l).choices = s.choices := rfl
@[simp] theorem State.setInputs_drawCount (l : List Input) : (s.setInputs l).drawCount = s.drawCount := rfl

@[simp] theorem State.setChoices_regs (l : List Choice) : (s.setChoices l).regs = s.regs := rfl
@[simp] theorem State.setChoices_cache (l : List Choice) : (s.setChoices l).cache = s.cache := rfl
@[simp] theorem State.setChoices_shutdown (l : List Choice) : (s.setChoices l).shutdown = s.shutdown := rfl
@[simp] theorem State.setChoices_pstate (l : List Choice) : (s.setChoices l).pstate = s.pstate := rfl
@[simp] theorem State.setChoices_lock (l : List Choice) : (s.setChoices l).lock = s.lock := rfl
@[simp] theorem State.setChoices_destroyed (l : List Choice) : (s.setChoices l).destroyed = s.destroyed := rfl
@[simp] theorem State.setChoices_events (l : List Choice) : (s.setChoices l).events = s.events := rfl
@[simp] theorem State.setChoices_trace (l : List Choice) : (s.setChoices l).trace = s.trace := rfl
@[simp] theorem State.setChoices_clean (l : List Choice) : (s.setChoices l).clean = s.clean := rfl
@[simp] theorem State.setChoices_synced (l : List Choice) : (s.setChoices l).synced = s.synced := rfl
@[simp] theorem State.setChoices_params (l : List Choice) : (s.setChoices l).params = s.params := rfl
@[simp] theorem State.setChoices_result (l : List Choice) : (s.setChoices l).result = s.result := rfl
@[simp] theorem State.setChoices_inputs (l : List Choice) : (s.setChoices l).inputs = s.inputs := rfl
@[simp] theorem State.setChoices_choices (l : List Choice) : (s.setChoices l).choices = l := rfl
@[simp] theorem State.setChoices_drawCount (l : List Choice) : (s.setChoices l).drawCount = s.drawCount := rfl

@[simp] theorem State.drew_regs : (s.drew).regs = s.regs := rfl
@[simp] theorem State.drew_cache : (s.drew).cache = s.cache := rfl
@[simp] theorem State.drew_shutdown : (s.drew).shutdown = s.shutdown := rfl
@[simp] theorem State.drew_pstate : (s.drew).pstate = s.pstate := rfl
@[simp] theorem State.drew_lock : (s.drew).lock = s.lock := rfl
@[simp] theorem State.drew_destroyed : (s.drew).destroyed = s.destroyed := rfl
@[simp] theorem State.drew_events : (s.drew).events = s.events := rfl
@[simp] theorem State.drew_trace : (s.drew).trace = s.trace := rfl
@[simp] theorem State.drew_clean : (s.drew).clean = s.clean := rfl
@[simp] theorem State.drew_synced : (s.drew).synced = s.synced := rfl
@[simp] theorem State.drew_params : (s.drew).params = s.params := rfl
@[simp] theorem State.drew_result : (s.drew).result = s.result := rfl
@[simp] theorem State.drew_inputs : (s.drew).inputs = s.inputs := rfl
@[simp] theorem State.drew_choices : (s.drew).choices = s.choices := rfl
@[simp] theorem State.drew_drawCount : (s.drew).drawCount = s.drawCount + 1 := rfl

@[simp] theorem State.resetCore_regs : s.resetCore.regs = s.regs := rfl
@[simp] theorem State.resetCore_cache : s.resetCore.cache = 0x00#8 := rfl
@[simp] theorem State.resetCore_shutdown : s.resetCore.shutdown = false := rfl
@[simp] theorem State.resetCore_pstate : s.resetCore.pstate = .unarmed := rfl
@[simp] theorem State.resetCore_lock : s.resetCore.lock = .free := rfl
@[simp] theorem State.resetCore_destroyed : s.resetCore.destroyed = false := rfl
@[simp] theorem State.resetCore_events : s.resetCore.events = [] := rfl
@[simp] theorem State.resetCore_trace : s.resetCore.trace = [] := rfl
@[simp] theorem State.resetCore_clean : s.resetCore.clean = false := rfl
@[simp] theorem State.resetCore_synced : s.resetCore.synced = false := rfl
@[simp] theorem State.resetCore_params : s.resetCore.params = s.params := rfl
@[simp] theorem State.resetCore_result : s.resetCore.result = none := rfl
@[simp] theorem State.resetCore_inputs : s.resetCore.inputs = s.inputs := rfl
@[simp] theorem State.resetCore_choices : s.resetCore.choices = s.choices := rfl
@[simp] theorem State.resetCore_drawCount : s.resetCore.drawCount = s.drawCount := rfl
@[simp] theorem State.resetCore_x (addr : Addr) : s.resetCore.x addr = s.x addr := rfl

@[simp] theorem State.setRegs_x (m : Memory) (a : Addr) : (s.setRegs m).x a = Memory.get m a := rfl
@[simp] theorem State.setCache_x (v : Byte) (addr : Addr) : (s.setCache v).x addr = s.x addr := rfl
@[simp] theorem State.setShutdown_x (addr : Addr) : (s.setShutdown).x addr = s.x addr := rfl
@[simp] theorem State.setPState_x (p : PState) (addr : Addr) : (s.setPState p).x addr = s.x addr := rfl
@[simp] theorem State.setLock_x (l : Lock) (addr : Addr) : (s.setLock l).x addr = s.x addr := rfl
@[simp] theorem State.setDestroyed_x (addr : Addr) : (s.setDestroyed).x addr = s.x addr := rfl
@[simp] theorem State.emit_x (es : List Event) (addr : Addr) : (s.emit es).x addr = s.x addr := rfl
@[simp] theorem State.record_x (t : Transaction) (addr : Addr) : (s.record t).x addr = s.x addr := rfl
@[simp] theorem State.setClean_x (b : Bool) (addr : Addr) : (s.setClean b).x addr = s.x addr := rfl
@[simp] theorem State.setSynced_x (b : Bool) (addr : Addr) : (s.setSynced b).x addr = s.x addr := rfl
@[simp] theorem State.setResult_x (r : Result) (addr : Addr) : (s.setResult r).x addr = s.x addr := rfl
@[simp] theorem State.setInputs_x (l : List Input) (addr : Addr) : (s.setInputs l).x addr = s.x addr := rfl
@[simp] theorem State.setChoices_x (l : List Choice) (addr : Addr) : (s.setChoices l).x addr = s.x addr := rfl
@[simp] theorem State.drew_x (addr : Addr) : (s.drew).x addr = s.x addr := rfl

end updates

end Sys2Proof.Machine
end

