-- ==== Sys2Proof/Laws/Port.lean ====
section
/-! SUPPORT. What each shared operation of Machine/Ops.lean can do, said once. -/

namespace Sys2Proof.Machine

/-! ## The steps of other agents -/

/-- The interrupt's entry changes `pstate` only (60_exceptions.md R254). -/
theorem State.takeInterrupt_eq (s : State) : s.takeInterrupt = s.setPState s.takeInterrupt.pstate := by
  unfold State.takeInterrupt; split <;> rfl

/-- A step of another agent changes the registers and `pstate` only. -/
theorem State.envStep_eq (s : State) (e : EnvStep) :
    s.envStep e = (s.setRegs (s.envStep e).regs).setPState (s.envStep e).pstate := by
  cases e with
  | irq => exact (State.takeInterrupt_eq s).trans (by simp only [State.envStep]; rw [State.takeInterrupt_eq s]; rfl)
  | _ => rfl

/-- Steps of other agents change the registers and `pstate` only (60_exceptions.md R254, R278). -/
theorem State.envSteps_eq (es : List EnvStep) (s : State) :
    s.envSteps es = (s.setRegs (s.envSteps es).regs).setPState (s.envSteps es).pstate := by
  induction es generalizing s with
  | nil => rfl
  | cons e t ih =>
    rw [State.envSteps, ih (s.envStep e), State.envStep_eq s e]; rfl

@[simp] theorem State.envSteps_nil (s : State) : s.envSteps [] = s := rfl
@[simp] theorem State.envSteps_cache (s : State) (es) : (s.envSteps es).cache = s.cache := by
  rw [State.envSteps_eq]; rfl
@[simp] theorem State.envSteps_shutdown (s : State) (es) : (s.envSteps es).shutdown = s.shutdown := by
  rw [State.envSteps_eq]; rfl
@[simp] theorem State.envSteps_lock (s : State) (es) : (s.envSteps es).lock = s.lock := by
  rw [State.envSteps_eq]; rfl
@[simp] theorem State.envSteps_destroyed (s : State) (es) : (s.envSteps es).destroyed = s.destroyed := by
  rw [State.envSteps_eq]; rfl
@[simp] theorem State.envSteps_events (s : State) (es) : (s.envSteps es).events = s.events := by
  rw [State.envSteps_eq]; rfl
@[simp] theorem State.envSteps_trace (s : State) (es) : (s.envSteps es).trace = s.trace := by
  rw [State.envSteps_eq]; rfl
@[simp] theorem State.envSteps_clean (s : State) (es) : (s.envSteps es).clean = s.clean := by
  rw [State.envSteps_eq]; rfl
@[simp] theorem State.envSteps_synced (s : State) (es) : (s.envSteps es).synced = s.synced := by
  rw [State.envSteps_eq]; rfl
@[simp] theorem State.envSteps_params (s : State) (es) : (s.envSteps es).params = s.params := by
  rw [State.envSteps_eq]; rfl
@[simp] theorem State.envSteps_result (s : State) (es) : (s.envSteps es).result = s.result := by
  rw [State.envSteps_eq]; rfl
@[simp] theorem State.envSteps_inputs (s : State) (es) : (s.envSteps es).inputs = s.inputs := by
  rw [State.envSteps_eq]; rfl
@[simp] theorem State.envSteps_choices (s : State) (es) : (s.envSteps es).choices = s.choices := by
  rw [State.envSteps_eq]; rfl
@[simp] theorem State.envSteps_drawCount (s : State) (es) : (s.envSteps es).drawCount = s.drawCount := by
  rw [State.envSteps_eq]; rfl

theorem State.envSteps_append (es fs : List EnvStep) (s : State) :
    s.envSteps (es ++ fs) = (s.envSteps es).envSteps fs := by
  induction es generalizing s with
  | nil => rfl
  | cons e t ih => exact ih (s.envStep e)

/-- What the other agents do to the registers and `pstate` depends on the registers, the parameters, `pstate` and
`destroyed` alone. -/
theorem State.envSteps_congr (es : List EnvStep) (s t : State) (hr : s.regs = t.regs) (hp : s.params = t.params)
    (hq : s.pstate = t.pstate) (hd : s.destroyed = t.destroyed) :
    (s.envSteps es).regs = (t.envSteps es).regs ∧ (s.envSteps es).pstate = (t.envSteps es).pstate := by
  induction es generalizing s t with
  | nil => exact ⟨hr, hq⟩
  | cons e es ih =>
    have key : (s.envStep e).regs = (t.envStep e).regs ∧ (s.envStep e).pstate = (t.envStep e).pstate := by
      cases e <;>
        simp [State.envStep, hr, hp, hq, State.takeInterrupt, State.irqEnabled, State.lineEnabled, State.irqOut,
          State.x, hd]
      split <;> simp [hr, hq]
    refine ih _ _ key.1 ?_ key.2 ?_
    · rw [State.envStep_eq s e, State.envStep_eq t e]; exact hp
    · rw [State.envStep_eq s e, State.envStep_eq t e]; exact hd

/-! ## Choices -/

/-- One choice is used up: the choices left and the count of draws change, nothing else. -/
theorem State.advanceChoice_eq (s : State) :
    s.advanceChoice = { s with choices := s.advanceChoice.choices, drawCount := s.advanceChoice.drawCount } := by
  unfold State.advanceChoice; split <;> rfl

/-- A state with a listed choice takes that one. -/
theorem State.nextChoice_cons {s : State} {c : Choice} {rest : List Choice} (h : s.choices = c :: rest) :
    s.nextChoice = c := by
  simp [State.nextChoice, h]

theorem State.advanceChoice_cons {s : State} {c : Choice} {rest : List Choice} (h : s.choices = c :: rest) :
    s.advanceChoice = s.setChoices rest := by
  simp [State.advanceChoice, h]

/-- What stands before a transaction: registers and `pstate` as the other agents leave them, one choice used up. -/
theorem State.interleave_eq (s : State) :
    s.interleave = { s with
      regs := s.interleave.regs
      pstate := s.interleave.pstate
      choices := s.interleave.choices
      drawCount := s.interleave.drawCount } := by
  unfold State.interleave
  rw [State.envSteps_eq, State.advanceChoice_eq]
  rfl

/-! ## Transactions -/

/-- The two ways a read can go (20_memory.md R63, R64, R68). -/
theorem State.memRead_cases (s : State) (a : Addr) (n : Nat) (h : inSpace a n) :
    s.memRead a n h =
        (some (Memory.readBlock s.interleave.regs a.toNat n),
          s.interleave.record ⟨⟨a, n, .read⟩, Memory.readBlock s.interleave.regs a.toNat n, true⟩)
      ∨ s.memRead a n h = (none, s.interleave.record ⟨⟨a, n, .read⟩, [], false⟩) := by
  unfold State.memRead
  cases s.nextChoice.outcome
  · exact .inl rfl
  · exact .inr rfl

/-- The two ways a write can go (20_memory.md R65, R66, R69). -/
theorem State.memWrite_cases (s : State) (a : Addr) (vs : List Byte) (h : inSpace a vs.length) :
    s.memWrite a vs h =
        (true, (s.interleave.setRegs (Memory.writeBlock s.interleave.regs a.toNat vs)).record
          ⟨⟨a, vs.length, .write⟩, vs, true⟩)
      ∨ ∃ stored, s.memWrite a vs h =
          (false, (s.interleave.setRegs (Memory.writeSome s.interleave.regs a.toNat stored vs)).record
            ⟨⟨a, vs.length, .write⟩, vs, false⟩) := by
  unfold State.memWrite
  cases s.nextChoice.outcome with
  | ok => exact .inl rfl
  | fails stored => exact .inr ⟨stored, rfl⟩

/-- A read whose choice succeeds. -/
theorem State.memRead_ok {s : State} {c : Choice} {rest : List Choice} (a : Addr) (n : Nat) (inside : inSpace a n)
    (h : s.choices = c :: rest) (ho : c.outcome = .ok) :
    s.memRead a n inside =
      (some (Memory.readBlock ((s.setChoices rest).envSteps c.steps).regs a.toNat n),
        ((s.setChoices rest).envSteps c.steps).record
          ⟨⟨a, n, .read⟩, Memory.readBlock ((s.setChoices rest).envSteps c.steps).regs a.toNat n, true⟩) := by
  simp [State.memRead, State.interleave, State.nextChoice_cons h, State.advanceChoice_cons h, ho]

/-- A read whose choice fails. -/
theorem State.memRead_fails {s : State} {c : Choice} {rest : List Choice} {stored : List Bool} (a : Addr) (n : Nat)
    (inside : inSpace a n) (h : s.choices = c :: rest) (ho : c.outcome = .fails stored) :
    s.memRead a n inside = (none, ((s.setChoices rest).envSteps c.steps).record ⟨⟨a, n, .read⟩, [], false⟩) := by
  simp [State.memRead, State.interleave, State.nextChoice_cons h, State.advanceChoice_cons h, ho]

/-- A write whose choice succeeds. -/
theorem State.memWrite_ok {s : State} {c : Choice} {rest : List Choice} (a : Addr) (vs : List Byte)
    (inside : inSpace a vs.length) (h : s.choices = c :: rest) (ho : c.outcome = .ok) :
    s.memWrite a vs inside =
      (true, (((s.setChoices rest).envSteps c.steps).setRegs
        (Memory.writeBlock ((s.setChoices rest).envSteps c.steps).regs a.toNat vs)).record
          ⟨⟨a, vs.length, .write⟩, vs, true⟩) := by
  simp [State.memWrite, State.interleave, State.nextChoice_cons h, State.advanceChoice_cons h, ho]

/-- A write whose choice fails. -/
theorem State.memWrite_fails {s : State} {c : Choice} {rest : List Choice} {stored : List Bool} (a : Addr)
    (vs : List Byte) (inside : inSpace a vs.length) (h : s.choices = c :: rest) (ho : c.outcome = .fails stored) :
    s.memWrite a vs inside =
      (false, (((s.setChoices rest).envSteps c.steps).setRegs
        (Memory.writeSome ((s.setChoices rest).envSteps c.steps).regs a.toNat stored vs)).record
          ⟨⟨a, vs.length, .write⟩, vs, false⟩) := by
  simp [State.memWrite, State.interleave, State.nextChoice_cons h, State.advanceChoice_cons h, ho]

/-- The two ways a Control write can go (20_memory.md R82). -/
theorem State.writeControl_cases (s : State) (v : Byte) :
    (∃ s', s.memWrite regControl [v] (inSpace_byte _) = (true, s') ∧ s.writeControl v = (true, (s'.setCache v).setSynced true))
      ∨ ∃ s', s.memWrite regControl [v] (inSpace_byte _) = (false, s') ∧ s.writeControl v = (false, s'.setClean false) := by
  rcases h : s.memWrite regControl [v] (inSpace_byte _) with ⟨ok, s'⟩
  cases ok
  · exact .inr ⟨s', rfl, by simp [State.writeControl, h]⟩
  · exact .inl ⟨s', rfl, by simp [State.writeControl, h]⟩

/-- A read goes on with its bytes, or raises at once (43_device.md R218). -/
theorem State.readThen_cases (s : State) (a : Addr) (n : Nat) (i : inSpace a n) (k : List Byte → State → State) :
    (∃ bs s', s.memRead a n i = (some bs, s') ∧ s.readThen a n i k = k bs s')
      ∨ ∃ s', s.memRead a n i = (none, s') ∧ s.readThen a n i k = s'.raise (.transportError ⟨a, n, .read⟩) := by
  rcases h : s.memRead a n i with ⟨bs, s'⟩
  cases bs
  · exact .inr ⟨s', rfl, by simp [State.readThen, h]⟩
  · next bs => exact .inl ⟨bs, s', rfl, by simp [State.readThen, h]⟩

/-- A write goes on, or raises at once (43_device.md R218). -/
theorem State.writeThen_cases (s : State) (a : Addr) (vs : List Byte) (i : inSpace a vs.length) (k : State → State) :
    (∃ s', s.memWrite a vs i = (true, s') ∧ s.writeThen a vs i k = k s')
      ∨ ∃ s', s.memWrite a vs i = (false, s')
          ∧ s.writeThen a vs i k = s'.raise (.transportError ⟨a, vs.length, .write⟩) := by
  rcases h : s.memWrite a vs i with ⟨ok, s'⟩
  cases ok
  · exact .inr ⟨s', rfl, by simp [State.writeThen, h]⟩
  · exact .inl ⟨s', rfl, by simp [State.writeThen, h]⟩

/-- A Control write goes on, or raises at once. -/
theorem State.writeControlThen_cases (s : State) (v : Byte) (k : State → State) :
    (∃ s', s.writeControl v = (true, s') ∧ s.writeControlThen v k = k s')
      ∨ ∃ s', s.writeControl v = (false, s')
          ∧ s.writeControlThen v k = s'.raise (.transportError ⟨regControl, 1, .write⟩) := by
  rcases h : s.writeControl v with ⟨ok, s'⟩
  cases ok
  · exact .inr ⟨s', rfl, by simp [State.writeControlThen, h]⟩
  · exact .inl ⟨s', rfl, by simp [State.writeControlThen, h]⟩

/-! ## The lock and admission -/

/-- An operation with the lock free runs under it; with the lock held it waits (20_memory.md R75). -/
theorem State.locked_cases (s : State) (i : Instr) (body : State → State) :
    (s.lock = .free ∧ s.locked i body = .next (s.underLock .foreground body))
      ∨ (s.lock ≠ .free ∧ s.locked i body = .next (s.waitToIssue i)) := by
  unfold State.locked
  split
  · next h => exact .inl ⟨h, rfl⟩
  · next h => exact .inr ⟨h, rfl⟩

/-- A next state of an I/O operation comes from the live phase (43_device.md R210). -/
theorem State.whenLive_next {s t : State} {go : Host.Outcome State Fault Refusal} (h : s.whenLive go = .next t) :
    s.phase = .live ∧ go = .next t := by
  unfold State.whenLive at h
  split at h
  · next hp => exact ⟨hp, h⟩
  · cases h
  · cases h

/-- A next state of INIT comes from the fresh phase (R210). -/
theorem State.whenFresh_next {s t : State} {go : Host.Outcome State Fault Refusal} (h : s.whenFresh go = .next t) :
    s.phase = .fresh ∧ go = .next t := by
  unfold State.whenFresh at h
  split at h
  · next hp => exact ⟨hp, h⟩
  · cases h
  · cases h

/-- A next state of SHUTDOWN or of an unknown frame comes before destruction (R210). -/
theorem State.whenNotDestroyed_next {s t : State} {go : Host.Outcome State Fault Refusal}
    (h : s.whenNotDestroyed go = .next t) : s.phase ≠ .destroyed ∧ go = .next t := by
  unfold State.whenNotDestroyed at h
  split at h
  · next hp => exact ⟨by simp [hp], h⟩
  · next hp => exact ⟨by simp [hp], h⟩
  · cases h

/-- A next state of an alarm operation: AlarmUnsupported without a line, else the operation's own (42_alarm.md R180). -/
theorem State.whenAlarm_next {s t : State} {go : Host.Outcome State Fault Refusal} (h : s.whenAlarm go = .next t) :
    s.phase = .live ∧ ((s.params.hasIrq = true ∧ go = .next t)
      ∨ (s.params.hasIrq = false ∧ t = s.raise .alarmUnsupported)) := by
  obtain ⟨hp, h⟩ := State.whenLive_next h
  refine ⟨hp, ?_⟩
  cases hi : s.params.hasIrq
  · rw [hi] at h; exact .inr ⟨rfl, by simpa using h.symm⟩
  · rw [hi] at h; exact .inl ⟨rfl, by simpa using h⟩

/-- The live phase admits an I/O operation. -/
theorem State.whenLive_live {s : State} (h : s.phase = .live) (go : Host.Outcome State Fault Refusal) :
    s.whenLive go = go := by
  simp [State.whenLive, h]

/-- A live device with a line admits an alarm operation. -/
theorem State.whenAlarm_live {s : State} (h : s.phase = .live) (hi : s.params.hasIrq = true)
    (go : Host.Outcome State Fault Refusal) : s.whenAlarm go = go := by
  simp [State.whenAlarm, State.whenLive_live h, hi]

/-- The fresh phase admits INIT. -/
theorem State.whenFresh_fresh {s : State} (h : s.phase = .fresh) (go : Host.Outcome State Fault Refusal) :
    s.whenFresh go = go := by
  simp [State.whenFresh, h]

/-- With the lock free the body runs under it. -/
theorem State.locked_free {s : State} (h : s.lock = .free) (i : Instr) (body : State → State) :
    s.locked i body = .next ((body (s.setLock .foreground)).setLock .free) := by
  simp [State.locked, h, State.underLock]

end Sys2Proof.Machine
end

