-- ==== Sys2Proof/Laws/Choices.lean ====
section
/-! SUPPORT. The choices ahead of a state: the next one is number 0, using one up shifts the rest, and each transaction
meets the next. -/

namespace Sys2Proof.Machine

theorem State.nextChoice_eq (s : State) : s.nextChoice = s.choiceAt 0 := by
  unfold State.nextChoice State.choiceAt
  cases h : s.choices <;> simp

theorem State.advanceChoice_eq_skip (s : State) : s.advanceChoice = s.skipChoices 1 := by
  obtain ⟨⟩ := s
  rename_i choices _
  cases choices <;> simp [State.advanceChoice, State.skipChoices, State.setChoices, State.drew]

@[simp] theorem State.choiceAt_skip (s : State) (n k : Nat) : (s.skipChoices n).choiceAt k = s.choiceAt (n + k) := by
  simp only [State.choiceAt, State.skipChoices, List.getElem?_drop, List.length_drop]
  cases h : s.choices[n + k]? with
  | some c => rfl
  | none =>
    have hl := List.getElem?_eq_none_iff.mp h
    simp only
    congr 1
    omega

theorem State.skip_skip (s : State) (m n : Nat) : (s.skipChoices m).skipChoices n = s.skipChoices (m + n) := by
  simp only [State.skipChoices, List.drop_drop, List.length_drop, State.mk.injEq, true_and]
  omega

theorem State.skip_zero (s : State) : s.skipChoices 0 = s := by
  simp [State.skipChoices]

/-- Which choices lie ahead depends on the listed ones and the count of draws alone. -/
theorem State.choiceAt_congr {s t : State} (hc : s.choices = t.choices) (hd : s.drawCount = t.drawCount) (k : Nat) :
    s.choiceAt k = t.choiceAt k := by
  simp only [State.choiceAt, hc, hd]

theorem State.interleave_eq_skip (s : State) :
    s.interleave = (s.skipChoices 1).envSteps (s.choiceAt 0).steps := by
  rw [State.interleave, State.nextChoice_eq, State.advanceChoice_eq_skip]

@[simp] theorem State.skipChoices_regs (s : State) (n : Nat) : (s.skipChoices n).regs = s.regs := rfl
@[simp] theorem State.skipChoices_x (s : State) (n : Nat) (a : Addr) : (s.skipChoices n).x a = s.x a := rfl
@[simp] theorem State.skipChoices_cache (s : State) (n : Nat) : (s.skipChoices n).cache = s.cache := rfl
@[simp] theorem State.skipChoices_shutdown (s : State) (n : Nat) : (s.skipChoices n).shutdown = s.shutdown := rfl
@[simp] theorem State.skipChoices_pstate (s : State) (n : Nat) : (s.skipChoices n).pstate = s.pstate := rfl
@[simp] theorem State.skipChoices_lock (s : State) (n : Nat) : (s.skipChoices n).lock = s.lock := rfl
@[simp] theorem State.skipChoices_destroyed (s : State) (n : Nat) : (s.skipChoices n).destroyed = s.destroyed := rfl
@[simp] theorem State.skipChoices_events (s : State) (n : Nat) : (s.skipChoices n).events = s.events := rfl
@[simp] theorem State.skipChoices_trace (s : State) (n : Nat) : (s.skipChoices n).trace = s.trace := rfl
@[simp] theorem State.skipChoices_clean (s : State) (n : Nat) : (s.skipChoices n).clean = s.clean := rfl
@[simp] theorem State.skipChoices_synced (s : State) (n : Nat) : (s.skipChoices n).synced = s.synced := rfl
@[simp] theorem State.skipChoices_params (s : State) (n : Nat) : (s.skipChoices n).params = s.params := rfl
@[simp] theorem State.skipChoices_result (s : State) (n : Nat) : (s.skipChoices n).result = s.result := rfl
@[simp] theorem State.skipChoices_inputs (s : State) (n : Nat) : (s.skipChoices n).inputs = s.inputs := rfl

@[simp] theorem State.interleave_cache (s : State) : s.interleave.cache = s.cache := by
  simp [State.interleave_eq_skip]
@[simp] theorem State.interleave_shutdown (s : State) : s.interleave.shutdown = s.shutdown := by
  simp [State.interleave_eq_skip]
@[simp] theorem State.interleave_lock (s : State) : s.interleave.lock = s.lock := by
  simp [State.interleave_eq_skip]
@[simp] theorem State.interleave_destroyed (s : State) : s.interleave.destroyed = s.destroyed := by
  simp [State.interleave_eq_skip]
@[simp] theorem State.interleave_events (s : State) : s.interleave.events = s.events := by
  simp [State.interleave_eq_skip]
@[simp] theorem State.interleave_trace (s : State) : s.interleave.trace = s.trace := by
  simp [State.interleave_eq_skip]
@[simp] theorem State.interleave_clean (s : State) : s.interleave.clean = s.clean := by
  simp [State.interleave_eq_skip]
@[simp] theorem State.interleave_synced (s : State) : s.interleave.synced = s.synced := by
  simp [State.interleave_eq_skip]
@[simp] theorem State.interleave_params (s : State) : s.interleave.params = s.params := by
  simp [State.interleave_eq_skip]
@[simp] theorem State.interleave_result (s : State) : s.interleave.result = s.result := by
  simp [State.interleave_eq_skip]
@[simp] theorem State.interleave_inputs (s : State) : s.interleave.inputs = s.inputs := by
  simp [State.interleave_eq_skip]
@[simp] theorem State.interleave_choices (s : State) : s.interleave.choices = (s.skipChoices 1).choices := by
  simp [State.interleave_eq_skip]
@[simp] theorem State.interleave_drawCount (s : State) : s.interleave.drawCount = (s.skipChoices 1).drawCount := by
  simp [State.interleave_eq_skip]

/-- The next choice of the state before a transaction's effect is the one after it. -/
@[simp] theorem State.choiceAt_interleave (s : State) (k : Nat) : s.interleave.choiceAt k = s.choiceAt (k + 1) := by
  rw [State.choiceAt_congr (State.interleave_choices s) (State.interleave_drawCount s), State.choiceAt_skip,
    Nat.add_comm]

/-- A read, by the outcome its choice has. -/
theorem State.memRead_of_ok {s : State} (a : Addr) (n : Nat) (inside : inSpace a n) (h : (s.choiceAt 0).outcome = .ok) :
    s.memRead a n inside =
      (some (Memory.readBlock s.interleave.regs a.toNat n),
        s.interleave.record ⟨⟨a, n, .read⟩, Memory.readBlock s.interleave.regs a.toNat n, true⟩) := by
  simp [State.memRead, State.nextChoice_eq, h]

theorem State.memRead_of_fails {s : State} {stored : List Bool} (a : Addr) (n : Nat)
    (inside : inSpace a n) (h : (s.choiceAt 0).outcome = .fails stored) :
    s.memRead a n inside = (none, s.interleave.record ⟨⟨a, n, .read⟩, [], false⟩) := by
  simp [State.memRead, State.nextChoice_eq, h]

/-- A write, by the outcome its choice has. -/
theorem State.memWrite_of_ok {s : State} (a : Addr) (vs : List Byte) (inside : inSpace a vs.length)
    (h : (s.choiceAt 0).outcome = .ok) :
    s.memWrite a vs inside =
      (true, (s.interleave.setRegs (Memory.writeBlock s.interleave.regs a.toNat vs)).record
        ⟨⟨a, vs.length, .write⟩, vs, true⟩) := by
  simp [State.memWrite, State.nextChoice_eq, h]

theorem State.memWrite_of_fails {s : State} {stored : List Bool} (a : Addr) (vs : List Byte)
    (inside : inSpace a vs.length) (h : (s.choiceAt 0).outcome = .fails stored) :
    s.memWrite a vs inside =
      (false, (s.interleave.setRegs (Memory.writeSome s.interleave.regs a.toNat stored vs)).record
        ⟨⟨a, vs.length, .write⟩, vs, false⟩) := by
  simp [State.memWrite, State.nextChoice_eq, h]

/-! An update of another field leaves the choices ahead alone. -/

@[simp] theorem State.choiceAt_setRegs (s : State) (m : Memory) (k : Nat) : (s.setRegs m).choiceAt k = s.choiceAt k := rfl
@[simp] theorem State.choiceAt_record (s : State) (t : Transaction) (k : Nat) : (s.record t).choiceAt k = s.choiceAt k := rfl
@[simp] theorem State.choiceAt_setCache (s : State) (v : Byte) (k : Nat) : (s.setCache v).choiceAt k = s.choiceAt k := rfl
@[simp] theorem State.choiceAt_setSynced (s : State) (b : Bool) (k : Nat) : (s.setSynced b).choiceAt k = s.choiceAt k := rfl
@[simp] theorem State.choiceAt_setClean (s : State) (b : Bool) (k : Nat) : (s.setClean b).choiceAt k = s.choiceAt k := rfl
@[simp] theorem State.choiceAt_setLock (s : State) (l : Lock) (k : Nat) : (s.setLock l).choiceAt k = s.choiceAt k := rfl
@[simp] theorem State.choiceAt_setPState (s : State) (p : PState) (k : Nat) : (s.setPState p).choiceAt k = s.choiceAt k := rfl
@[simp] theorem State.choiceAt_emit (s : State) (es : List Event) (k : Nat) : (s.emit es).choiceAt k = s.choiceAt k := rfl
@[simp] theorem State.choiceAt_setResult (s : State) (r : Result) (k : Nat) : (s.setResult r).choiceAt k = s.choiceAt k := rfl
@[simp] theorem State.choiceAt_setInputs (s : State) (l : List Input) (k : Nat) : (s.setInputs l).choiceAt k = s.choiceAt k := rfl
@[simp] theorem State.choiceAt_setShutdown (s : State) (k : Nat) : s.setShutdown.choiceAt k = s.choiceAt k := rfl
@[simp] theorem State.choiceAt_setDestroyed (s : State) (k : Nat) : s.setDestroyed.choiceAt k = s.choiceAt k := rfl
@[simp] theorem State.choiceAt_envSteps (s : State) (es : List EnvStep) (k : Nat) :
    (s.envSteps es).choiceAt k = s.choiceAt k := State.choiceAt_congr (by simp) (by simp) k

/-- With no other agent stepping before it, a transaction meets the state as it is, one choice used up. -/
theorem State.interleave_calm (s : State) (h : (s.choiceAt 0).steps = []) : s.interleave = s.skipChoices 1 := by
  rw [State.interleave_eq_skip, h]; rfl

end Sys2Proof.Machine
end

