-- ==== Sys2Proof/Laws/Peripheral.lean ====
section
/-! SUPPORT. What each Peripheral step does to the registers, address by address, and that it keeps the canonical
form. -/

namespace Sys2Proof.Machine

theorem Memory.get_setFlag (m : Memory) (mask : Byte) (a : Addr) :
    Memory.get (Memory.setFlag m mask) a = if a = regFlag then Memory.get m regFlag ||| mask else Memory.get m a := by
  simp only [Memory.setFlag, Memory.get_set, bset]

theorem Memory.wf_setFlag (m : Memory) (mask : Byte) (w : Memory.wf m = true) :
    Memory.wf (Memory.setFlag m mask) = true := Memory.wf_set _ _ _ w

/-- The time registers hold the image stored last (30_encoding.md R91). -/
@[simp] theorem Memory.timeImage_setTimeImage (m : Memory) (r : TimeImage) :
    Memory.timeImage (Memory.setTimeImage m r) = r := by
  obtain ⟨r0, r1, r2, r3, r4, r5, r6⟩ := r
  simp only [Memory.timeImage, Memory.setTimeImage, Memory.get, imageBytes, Memory.writeBlock, Memory.read_write]
  rfl

theorem isTimeRegister_iff (a : Addr) : isTimeRegister a = true ↔ 16 ≤ a.toNat ∧ a.toNat ≤ 22 := by
  simp [isTimeRegister, BitVec.le_def]

/-- A time image is stored in the seven time registers only. -/
theorem Memory.get_setTimeImage_other (m : Memory) (r : TimeImage) (a : Addr) (h : isTimeRegister a = false) :
    Memory.get (Memory.setTimeImage m r) a = Memory.get m a := by
  have h' : ¬(16 ≤ a.toNat ∧ a.toNat ≤ 22) := fun c => by simp [(isTimeRegister_iff a).mpr c] at h
  refine Memory.read_writeBlock_other _ _ _ _ ?_
  have e : regSec.toNat = 16 := rfl
  have l : (imageBytes r).length = 7 := rfl
  omega

theorem Memory.wf_setTimeImage (m : Memory) (r : TimeImage) (w : Memory.wf m = true) :
    Memory.wf (Memory.setTimeImage m r) = true :=
  Memory.wf_writeBlock _ _ _ (by simp [imageBytes, regSec]) w

/-- P-TIME changes no register but the time registers (60_exceptions.md R272). -/
theorem Memory.get_pTime_other (m : Memory) (advance : TimeAdvance) (draw : TimeImage) (a : Addr)
    (h : isTimeRegister a = false) : Memory.get (Memory.pTime m advance draw) a = Memory.get m a := by
  unfold Memory.pTime
  split
  · rfl
  · exact Memory.get_setTimeImage_other _ _ _ h

/-- While STOP is set P-TIME changes nothing (R272). -/
theorem Memory.pTime_stopped {m : Memory} (advance : TimeAdvance) (draw : TimeImage) (h : Memory.stopped m = true) :
    Memory.pTime m advance draw = m := by
  simp [Memory.pTime, h]

theorem Memory.wf_pTime (m : Memory) (advance : TimeAdvance) (draw : TimeImage) (w : Memory.wf m = true) :
    Memory.wf (Memory.pTime m advance draw) = true := by
  unfold Memory.pTime
  split
  · exact w
  · exact Memory.wf_setTimeImage _ _ w

/-- P-OSC sets VLF, and changes no other register but the time registers (R271). -/
theorem Memory.get_pOsc_other (m : Memory) (scramble : Option TimeImage) (a : Addr) (h : isTimeRegister a = false) :
    Memory.get (Memory.pOsc m scramble) a
      = if a = regFlag then Memory.get m regFlag ||| maskVLF else Memory.get m a := by
  cases scramble with
  | none => exact Memory.get_setFlag m maskVLF a
  | some r => rw [Memory.pOsc, Memory.get_pTime_other _ _ _ _ h, Memory.get_setFlag]

theorem Memory.wf_pOsc (m : Memory) (scramble : Option TimeImage) (w : Memory.wf m = true) :
    Memory.wf (Memory.pOsc m scramble) = true := by
  cases scramble with
  | none => exact Memory.wf_setFlag _ _ w
  | some r => exact Memory.wf_pTime _ _ _ (Memory.wf_setFlag _ _ w)

/-- P-ALARM sets AF on a match, and changes nothing else (R275). -/
theorem Memory.get_pAlarm (m : Memory) (dayTerm : Bool) (a : Addr) :
    Memory.get (Memory.pAlarm m dayTerm) a
      = if Memory.alarmMatch m dayTerm = true ∧ a = regFlag then Memory.get m regFlag ||| maskAF
        else Memory.get m a := by
  unfold Memory.pAlarm
  split
  · next h => simp [h, Memory.get_setFlag]
  · next h => simp [h]

theorem Memory.wf_pAlarm (m : Memory) (dayTerm : Bool) (w : Memory.wf m = true) :
    Memory.wf (Memory.pAlarm m dayTerm) = true := by
  unfold Memory.pAlarm
  split
  · exact Memory.wf_setFlag _ _ w
  · exact w

/-- Flag is no time register. -/
theorem isTimeRegister_flag : isTimeRegister regFlag = false := by decide

/-- P-TIME leaves Flag alone. -/
theorem Memory.get_pTime_flag (m : Memory) (advance : TimeAdvance) (draw : TimeImage) :
    Memory.get (Memory.pTime m advance draw) regFlag = Memory.get m regFlag :=
  Memory.get_pTime_other _ _ _ _ isTimeRegister_flag

end Sys2Proof.Machine
end

