-- ==== Sys2Proof/Laws/Environment.lean ====
section
/-! SUPPORT. What the other agents can do between two transactions: which registers stay, that flags only grow, that the
time stands still while STOP is set, and how `pstate` can move. -/

namespace Sys2Proof.Machine

/-- The registers but the time registers and Flag are out of the other agents' reach (60_exceptions.md R278). -/
theorem State.envStep_x (s : State) (e : EnvStep) (a : Addr) (h : isTimeRegister a = false) (hf : a ≠ regFlag) :
    (s.envStep e).x a = s.x a := by
  cases e with
  | pOsc scramble => simp [State.envStep, State.x, Memory.get_pOsc_other _ _ _ h, hf]
  | pTime image => simp [State.envStep, State.x, Memory.get_pTime_other _ _ _ _ h]
  | pAlarm dayTerm => simp [State.envStep, State.x, Memory.get_pAlarm, hf]
  | pTimer => simp [State.envStep, State.x, Memory.pTimer, Memory.get_setFlag, hf]
  | pUpdate => simp [State.envStep, State.x, Memory.pUpdate, Memory.get_setFlag, hf]
  | irq => simp only [State.envStep]; rw [State.takeInterrupt_eq]; rfl

theorem State.envSteps_x (es : List EnvStep) (s : State) (a : Addr) (h : isTimeRegister a = false)
    (hf : a ≠ regFlag) : (s.envSteps es).x a = s.x a := by
  induction es generalizing s with
  | nil => rfl
  | cons e t ih => rw [State.envSteps, ih, State.envStep_x _ _ _ h hf]

theorem State.interleave_x (s : State) (a : Addr) (h : isTimeRegister a = false) (hf : a ≠ regFlag) :
    s.interleave.x a = s.x a := by
  rw [State.interleave_eq_skip, State.envSteps_x _ _ _ h hf]; rfl

/-- A set Flag bit stays set (R278). -/
theorem State.envStep_flag_grows (s : State) (e : EnvStep) (k : Nat) (h : (s.x regFlag).getLsbD k = true) :
    ((s.envStep e).x regFlag).getLsbD k = true := by
  cases e with
  | pOsc scramble => simp_all [State.envStep, State.x, Memory.get_pOsc_other _ _ _ isTimeRegister_flag]
  | pTime image => simp_all [State.envStep, State.x, Memory.get_pTime_flag]
  | pAlarm dayTerm =>
    simp only [State.envStep, State.x, State.setRegs_regs, Memory.get_pAlarm]
    simp only [State.x] at h
    split <;> simp_all
  | pTimer => simp_all [State.envStep, State.x, Memory.pTimer, Memory.get_setFlag]
  | pUpdate => simp_all [State.envStep, State.x, Memory.pUpdate, Memory.get_setFlag]
  | irq => simp only [State.envStep]; rw [State.takeInterrupt_eq]; exact h

theorem State.envSteps_flag_grows (es : List EnvStep) (s : State) (k : Nat) (h : (s.x regFlag).getLsbD k = true) :
    ((s.envSteps es).x regFlag).getLsbD k = true := by
  induction es generalizing s with
  | nil => exact h
  | cons e t ih => exact ih _ (State.envStep_flag_grows s e k h)

/-- While STOP is set the time registers stand still (R272; P-OSC: log entry 10). -/
theorem State.envStep_time (s : State) (e : EnvStep) (h : Memory.stopped s.regs = true) :
    Memory.timeImage (s.envStep e).regs = Memory.timeImage s.regs := by
  have keep : ∀ a, isTimeRegister a = true → Memory.get (s.envStep e).regs a = Memory.get s.regs a := by
    intro a ha
    have hf : a ≠ regFlag := by rintro rfl; simp [isTimeRegister_flag] at ha
    cases e with
    | pOsc scramble =>
      cases scramble with
      | none => simp [State.envStep, Memory.pOsc, Memory.get_setFlag, hf]
      | some image =>
        have st : Memory.stopped (Memory.setFlag s.regs maskVLF) = true := by
          rw [← h]; simp [Memory.stopped, Memory.get_setFlag, regControl, regFlag]
        simp [State.envStep, Memory.pOsc, Memory.pTime_stopped _ _ st, Memory.get_setFlag, hf]
    | pTime image => simp [State.envStep, Memory.pTime_stopped _ _ h]
    | pAlarm dayTerm => simp [State.envStep, Memory.get_pAlarm, hf]
    | pTimer => simp [State.envStep, Memory.pTimer, Memory.get_setFlag, hf]
    | pUpdate => simp [State.envStep, Memory.pUpdate, Memory.get_setFlag, hf]
    | irq => simp only [State.envStep]; rw [State.takeInterrupt_eq]; rfl
  simp only [Memory.timeImage]
  rw [keep regSec (by decide), keep regMin (by decide), keep regHour (by decide), keep regWday (by decide),
    keep regMday (by decide), keep regMonth (by decide), keep regYear (by decide)]

theorem Memory.stopped_iff (m : Memory) : Memory.stopped m = true ↔ (Memory.get m regControl).getLsbD 6 = true := by
  simp only [Memory.stopped, btst]
  generalize Memory.get m regControl = b
  revert b; decide

theorem State.envSteps_time (es : List EnvStep) (s : State) (h : Memory.stopped s.regs = true) :
    Memory.timeImage (s.envSteps es).regs = Memory.timeImage s.regs := by
  induction es generalizing s with
  | nil => rfl
  | cons e t ih =>
    rw [State.envSteps, ih, State.envStep_time _ _ h]
    rw [Memory.stopped_iff] at h ⊢
    exact (congrArg (·.getLsbD 6) (State.envStep_x s e regControl (by decide) (by decide))).trans h

/-- `pstate` stays, or an armed pipeline takes the interrupt (R253, R254). -/
theorem State.envStep_pstate (s : State) (e : EnvStep) :
    (s.envStep e).pstate = s.pstate ∨ s.pstate = .armed ∧ (s.envStep e).pstate = .handling := by
  cases e with
  | irq =>
    simp only [State.envStep, State.takeInterrupt]
    split
    · next h => right; simp [State.irqEnabled, State.lineEnabled] at h; simp [h]
    · exact .inl rfl
  | _ => exact .inl rfl

theorem State.envSteps_pstate (es : List EnvStep) (s : State) :
    (s.envSteps es).pstate = s.pstate ∨ s.pstate = .armed ∧ (s.envSteps es).pstate = .handling := by
  induction es generalizing s with
  | nil => exact .inl rfl
  | cons e t ih =>
    rcases State.envStep_pstate s e with h | h <;> rcases ih (s.envStep e) with h' | h' <;>
      simp_all [State.envSteps]

theorem State.interleave_pstate (s : State) :
    s.interleave.pstate = s.pstate ∨ s.pstate = .armed ∧ s.interleave.pstate = .handling := by
  rw [State.interleave_eq_skip]; exact State.envSteps_pstate _ _

/-- Every step of another agent keeps the canonical form. -/
theorem State.wf_envStep (s : State) (e : EnvStep) (w : Memory.wf s.regs = true) :
    Memory.wf (s.envStep e).regs = true := by
  cases e with
  | pOsc scramble => exact Memory.wf_pOsc _ _ w
  | pTime image => exact Memory.wf_pTime _ _ _ w
  | pAlarm dayTerm => exact Memory.wf_pAlarm _ _ w
  | pTimer => exact Memory.wf_setFlag _ _ w
  | pUpdate => exact Memory.wf_setFlag _ _ w
  | irq => simp only [State.envStep]; rw [State.takeInterrupt_eq]; exact w

theorem State.wf_envSteps (es : List EnvStep) (s : State) (w : Memory.wf s.regs = true) :
    Memory.wf (s.envSteps es).regs = true := by
  induction es generalizing s with
  | nil => exact w
  | cons e t ih => exact ih _ (State.wf_envStep s e w)

end Sys2Proof.Machine
end

