-- ==== Sys2Proof/Laws/Frame.lean ====
section
/-! SUPPORT. The bytes of a frame built from eight bytes. -/

namespace Sys2Proof

section bytes

variable (c0 c1 c2 c3 c4 c5 c6 c7 : Byte)

/-- Byte 0 is the opcode byte (30_encoding.md R100). -/
@[simp] theorem frameByte_frameOf_0 : frameByte (frameOf c0 c1 c2 c3 c4 c5 c6 c7) 0 = c0 := by
  ext i h
  simp only [frameByte, frameOf, BitVec.getElem_extractLsb', BitVec.getLsbD_append]
  rw [if_pos (by omega), if_pos (by omega), if_pos (by omega), if_pos (by omega), if_pos (by omega),
    if_pos (by omega), if_pos (by omega), ← BitVec.getLsbD_eq_getElem, Nat.mul_zero,
    Nat.zero_add]

@[simp] theorem frameByte_frameOf_1 : frameByte (frameOf c0 c1 c2 c3 c4 c5 c6 c7) 1 = c1 := by
  ext i h
  simp only [frameByte, frameOf, BitVec.getElem_extractLsb', BitVec.getLsbD_append]
  rw [if_pos (by omega), if_pos (by omega), if_pos (by omega), if_pos (by omega), if_pos (by omega),
    if_pos (by omega), if_neg (by omega), ← BitVec.getLsbD_eq_getElem]
  congr 1
  omega

@[simp] theorem frameByte_frameOf_2 : frameByte (frameOf c0 c1 c2 c3 c4 c5 c6 c7) 2 = c2 := by
  ext i h
  simp only [frameByte, frameOf, BitVec.getElem_extractLsb', BitVec.getLsbD_append]
  rw [if_pos (by omega), if_pos (by omega), if_pos (by omega), if_pos (by omega), if_pos (by omega),
    if_neg (by omega), ← BitVec.getLsbD_eq_getElem]
  congr 1
  omega

@[simp] theorem frameByte_frameOf_3 : frameByte (frameOf c0 c1 c2 c3 c4 c5 c6 c7) 3 = c3 := by
  ext i h
  simp only [frameByte, frameOf, BitVec.getElem_extractLsb', BitVec.getLsbD_append]
  rw [if_pos (by omega), if_pos (by omega), if_pos (by omega), if_pos (by omega), if_neg (by omega),
    ← BitVec.getLsbD_eq_getElem]
  congr 1
  omega

@[simp] theorem frameByte_frameOf_4 : frameByte (frameOf c0 c1 c2 c3 c4 c5 c6 c7) 4 = c4 := by
  ext i h
  simp only [frameByte, frameOf, BitVec.getElem_extractLsb', BitVec.getLsbD_append]
  rw [if_pos (by omega), if_pos (by omega), if_pos (by omega), if_neg (by omega), ← BitVec.getLsbD_eq_getElem]
  congr 1
  omega

@[simp] theorem frameByte_frameOf_5 : frameByte (frameOf c0 c1 c2 c3 c4 c5 c6 c7) 5 = c5 := by
  ext i h
  simp only [frameByte, frameOf, BitVec.getElem_extractLsb', BitVec.getLsbD_append]
  rw [if_pos (by omega), if_pos (by omega), if_neg (by omega), ← BitVec.getLsbD_eq_getElem]
  congr 1
  omega

@[simp] theorem frameByte_frameOf_6 : frameByte (frameOf c0 c1 c2 c3 c4 c5 c6 c7) 6 = c6 := by
  ext i h
  simp only [frameByte, frameOf, BitVec.getElem_extractLsb', BitVec.getLsbD_append]
  rw [if_pos (by omega), if_neg (by omega), ← BitVec.getLsbD_eq_getElem]
  congr 1
  omega

@[simp] theorem frameByte_frameOf_7 : frameByte (frameOf c0 c1 c2 c3 c4 c5 c6 c7) 7 = c7 := by
  ext i h
  simp only [frameByte, frameOf, BitVec.getElem_extractLsb', BitVec.getLsbD_append]
  rw [if_neg (by omega), ← BitVec.getLsbD_eq_getElem]
  congr 1
  omega

end bytes

end Sys2Proof
end

