-- ==== Sys2Proof/Laws/PerInstr.lean ====
section
/-! SUPPORT. The per-instruction family OpcodeByte: an encoded operation carries its opcode in `c0`
(30_encoding.md R100, R101). -/

namespace Sys2Proof.Laws.OpcodeByte

/-- Byte `c0` of the operation's frame is its opcode. -/
def Statement (i : Instr) : Prop := frameByte (encodeFrame i) 0 = i.opcode

theorem bcd2bin (b : Byte) : Statement (.bcd2bin b) := frameByte_frameOf_0 ..
theorem bin2bcd (v : Nat) : Statement (.bin2bcd v) := frameByte_frameOf_0 ..
theorem decode (r : TimeImage) : Statement (.decode r) := frameByte_frameOf_0 ..
theorem encode (t : CalendarTime) : Statement (.encode t) := frameByte_frameOf_0 ..
theorem btst (b m : Byte) : Statement (.btst b m) := frameByte_frameOf_0 ..
theorem bset (b m : Byte) : Statement (.bset b m) := frameByte_frameOf_0 ..
theorem bclr (b m : Byte) : Statement (.bclr b m) := frameByte_frameOf_0 ..
theorem getTime : Statement .getTime := frameByte_frameOf_0 ..
theorem setTime (t : CalendarTime) : Statement (.setTime t) := frameByte_frameOf_0 ..
theorem getAlarm : Statement .getAlarm := frameByte_frameOf_0 ..
theorem setAlarm (a : AlarmSpec) : Statement (.setAlarm a) := frameByte_frameOf_0 ..
theorem alarmEn (enabled : Bool) : Statement (.alarmEn enabled) := frameByte_frameOf_0 ..
theorem init : Statement .init := frameByte_frameOf_0 ..
theorem shutdown : Statement .shutdown := frameByte_frameOf_0 ..

end Sys2Proof.Laws.OpcodeByte
end

