-- ==== Sys2Proof/Laws/Run.lean ====
section
/-! SUPPORT. What the body of an operation can do, said once: it is a run of reads, writes, Control writes, events and
a result. A fact that each of these keeps is kept by every operation: prove it by induction on `Run`. -/

namespace Sys2Proof.Machine

/-- `Run ok init sep s t`: `t` comes from `s` by transactions that `ok` allows, events and results; where `init` is set,
also by the cache loads and the arming of INIT (43_device.md R213); where `sep` is set, no plain write starts at
Control. -/
inductive Run (ok : TxInfo → Prop) (init sep : Bool) : State → State → Prop where
  | done (s : State) : Run ok init sep s s
  | read (s t : State) (a : Addr) (n : Nat) (inside : inSpace a n) :
      ok ⟨a, n, .read⟩ → Run ok init sep (s.memRead a n inside).2 t → Run ok init sep s t
  | write (s t : State) (a : Addr) (vs : List Byte) (inside : inSpace a vs.length) :
      (sep = true → a ≠ regControl) → ok ⟨a, vs.length, .write⟩ → Run ok init sep (s.memWrite a vs inside).2 t →
      Run ok init sep s t
  | control (s t : State) (v : Byte) :
      ok ⟨regControl, 1, .write⟩ → Run ok init sep (s.writeControl v).2 t → Run ok init sep s t
  | emit (s t : State) (es : List Event) : Run ok init sep (s.emit es) t → Run ok init sep s t
  | result (s t : State) (r : Result) : Run ok init sep (s.setResult r) t → Run ok init sep s t
  | load (s t : State) (v : Byte) : init = true → Run ok init sep (s.setCache v) t → Run ok init sep s t
  | finish (s t : State) (zeroed needsReset : Bool) :
      init = true → Run ok init sep (s.finishInit zeroed needsReset) t → Run ok init sep s t

section combinators

variable {ok : TxInfo → Prop} {init sep : Bool} {s : State}

theorem Run.raise (e : ErrorKind) : Run ok init sep s (s.raise e) := .result _ _ _ (.done _)

theorem Run.succeed (v : Value) : Run ok init sep s (s.succeed v) := .result _ _ _ (.done _)

theorem Run.trans {t u : State} (h : Run ok init sep s t) (k : Run ok init sep t u) : Run ok init sep s u := by
  induction h with
  | done => exact k
  | read s t a n i ha _ ih => exact .read _ _ _ _ i ha (ih k)
  | write s t a vs i hc ha _ ih => exact .write _ _ _ _ i hc ha (ih k)
  | control s t v ha _ ih => exact .control _ _ _ ha (ih k)
  | emit s t es _ ih => exact .emit _ _ _ (ih k)
  | result s t r _ ih => exact .result _ _ _ (ih k)
  | load s t v hi _ ih => exact .load _ _ _ hi (ih k)
  | finish s t z n hi _ ih => exact .finish _ _ _ _ hi (ih k)

theorem Run.readThen {a : Addr} {n : Nat} {i : inSpace a n} {k : List Byte → State → State} (ha : ok ⟨a, n, .read⟩)
    (hk : ∀ bs s', Run ok init sep s' (k bs s')) : Run ok init sep s (s.readThen a n i k) := by
  refine .read _ _ a n i ha ?_
  rcases State.readThen_cases s a n i k with ⟨bs, s', h, e⟩ | ⟨s', h, e⟩
  · rw [e, h]; exact hk bs s'
  · rw [e, h]; exact Run.raise _

theorem Run.readByteThen {a : Addr} {k : Byte → State → State} (ha : ok ⟨a, 1, .read⟩)
    (hk : ∀ b s', Run ok init sep s' (k b s')) : Run ok init sep s (s.readByteThen a k) :=
  Run.readThen ha fun bs s' => hk (bs.getD 0 0) s'

theorem Run.writeThen {a : Addr} {vs : List Byte} {i : inSpace a vs.length} {k : State → State}
    (hc : sep = true → a ≠ regControl) (ha : ok ⟨a, vs.length, .write⟩) (hk : ∀ s', Run ok init sep s' (k s')) :
    Run ok init sep s (s.writeThen a vs i k) := by
  refine .write _ _ a vs i hc ha ?_
  rcases State.writeThen_cases s a vs i k with ⟨s', h, e⟩ | ⟨s', h, e⟩
  · rw [e, h]; exact hk s'
  · rw [e, h]; exact Run.raise _

theorem Run.writeByteThen {a : Addr} {v : Byte} {k : State → State} (hc : sep = true → a ≠ regControl)
    (ha : ok ⟨a, 1, .write⟩) (hk : ∀ s', Run ok init sep s' (k s')) : Run ok init sep s (s.writeByteThen a v k) :=
  Run.writeThen hc ha hk

theorem Run.writeControlThen {v : Byte} {k : State → State} (ha : ok ⟨regControl, 1, .write⟩)
    (hk : ∀ s', Run ok init sep s' (k s')) : Run ok init sep s (s.writeControlThen v k) := by
  refine .control _ _ v ha ?_
  rcases State.writeControlThen_cases s v k with ⟨s', h, e⟩ | ⟨s', h, e⟩
  · rw [e, h]; exact hk s'
  · rw [e, h]; exact Run.raise _

theorem Run.clearAlarmFlagThen {k : State → State} (hr : ok ⟨regFlag, 1, .read⟩) (hw : ok ⟨regFlag, 1, .write⟩)
    (hk : ∀ s', Run ok init sep s' (k s')) : Run ok init sep s (s.clearAlarmFlagThen k) :=
  Run.readByteThen hr fun _ _ => Run.writeByteThen (fun _ => by decide) hw hk

end combinators

/-! Each body is a run of the transactions R62 lists for its operation. -/

section bodies

variable (p : Params) (sep : Bool) (s : State)

theorem getTimeBody_run : Run (· ∈ listedTransactions p .getTime) false sep s s.getTimeBody :=
  Run.readThen (by simp [listedTransactions, txRead, regSec]) fun _ _ => .result _ _ _ (.done _)

theorem clearStop_run : Run (· ∈ listedTransactions p (.setTime default)) false sep s s.clearStop.2 := by
  unfold State.clearStop
  refine .read _ _ regControl 1 (inSpace_byte _) (by simp [listedTransactions, txRead, regControl]) ?_
  rcases s.memRead regControl 1 (inSpace_byte _) with ⟨_ | bs, s'⟩
  · exact .done _
  · refine .control _ _ (bclr (bs.getD 0 0) maskSTOP) (by simp [listedTransactions, txWrite, regControl]) ?_
    dsimp only
    rcases s'.writeControl (bclr (bs.getD 0 0) maskSTOP) with ⟨_ | _, s''⟩ <;> exact .done _

theorem setTimeBody_run (t : CalendarTime) :
    Run (· ∈ listedTransactions p (.setTime t)) false sep s (State.setTimeBody t s) := by
  refine Run.readByteThen (by simp [listedTransactions, txRead, regControl]) fun c s => ?_
  refine Run.writeControlThen (by simp [listedTransactions, txWrite, regControl]) fun s => ?_
  refine .write _ _ regSec (imageBytes (encodeImage t)) timeBlock_inSpace (fun _ => by decide)
    (by simp [listedTransactions, txWrite, regSec, imageBytes]) ?_
  exact (clearStop_run p _ _).trans (.result _ _ _ (.done _))

theorem getAlarmBody_run : Run (· ∈ listedTransactions p .getAlarm) false sep s s.getAlarmBody :=
  Run.readThen (by simp [listedTransactions, txRead, regAlarmMin]) fun _ _ =>
    Run.readByteThen (by simp [listedTransactions, txRead, regFlag]) fun _ _ => Run.succeed _

theorem setAlarmBody_run (a : AlarmSpec) :
    Run (· ∈ listedTransactions p (.setAlarm a)) false sep s (State.setAlarmBody a s) := by
  have rest : ∀ s : State, Run (· ∈ listedTransactions p (.setAlarm a)) false sep s
      (s.writeThen regAlarmMin [bin2bcd a.minute, bin2bcd a.hour] alarmPair_inSpace fun s =>
        s.readByteThen regExtension fun e s =>
        s.writeByteThen regExtension (bput e maskWADA wadaMday) fun s =>
        s.writeByteThen regAlarmDay (alarmDayByte a.day) fun s =>
        s.clearAlarmFlagThen fun s => s.enableAlarm a.enabled) := by
    intro s
    refine Run.writeThen (fun _ => by decide) (by simp [listedTransactions, txWrite, regAlarmMin]) fun s => ?_
    refine Run.readByteThen (by simp [listedTransactions, txRead, regExtension]) fun e s => ?_
    refine Run.writeThen (fun _ => by decide) (by simp [listedTransactions, txWrite, regExtension]) fun s => ?_
    refine Run.writeThen (fun _ => by decide) (by simp [listedTransactions, txWrite, regAlarmDay]) fun s => ?_
    refine Run.clearAlarmFlagThen (by simp [listedTransactions, txRead, regFlag])
      (by simp [listedTransactions, txWrite, regFlag]) fun s => ?_
    unfold State.enableAlarm
    split
    · exact Run.writeControlThen (by simp [listedTransactions, txWrite, regControl]) fun _ => Run.succeed _
    · exact Run.succeed _
  unfold State.setAlarmBody State.disableAlarmThen
  split
  · exact Run.writeControlThen (by simp [listedTransactions, txWrite, regControl]) rest
  · exact rest s

theorem alarmEnBody_run (e : Bool) : Run (· ∈ listedTransactions p (.alarmEn e)) false sep s (State.alarmEnBody e s) := by
  refine Run.clearAlarmFlagThen (by simp [listedTransactions, txRead, regFlag])
    (by simp [listedTransactions, txWrite, regFlag]) fun s' => ?_
  split
  · exact Run.succeed _
  · exact Run.writeControlThen (by simp [listedTransactions, txWrite, regControl]) fun _ => Run.succeed _

theorem inspectFlag_run (f : Byte) : Run (· ∈ listedTransactions p .init) true sep s (s.inspectFlag f) := by
  refine .emit _ _ (if btst f maskVLF then [.clockUnreliable] else []) ?_
  cases h : btst f maskAnyFlag
  · simp only [State.inspectFlag, h]
    exact .finish _ _ false (btst f maskVLF) rfl (.done _)
  · simp only [State.inspectFlag, h, if_true]
    refine Run.writeThen (fun _ => by decide) (by simp [listedTransactions, txWrite, regFlag]) fun s => ?_
    exact Run.writeControlThen (by simp [listedTransactions, txWrite, regControl]) fun s =>
      .finish _ _ true (btst f maskVLF) rfl (.done _)

theorem forgetCache_run (ok : TxInfo → Prop) : Run ok true sep s s.forgetCache := by
  unfold State.forgetCache
  split
  · exact .load _ _ _ rfl (.done _)
  · exact .done _

/-- INIT's body; R7 keeps the reserved addresses away from Control. -/
theorem initBody_run (h0 : sep = true → s.params.rsv0Addr ≠ regControl)
    (h1 : sep = true → s.params.rsv1Addr ≠ regControl)
    (hp : p = s.params) : Run (· ∈ listedTransactions p .init) true sep s s.initBody := by
  refine Run.trans ?_ (forgetCache_run _ _ _)
  unfold State.initSequence
  refine .write _ _ s.params.rsv0Addr [s.params.rsv0Val] (inSpace_byte _) h0 (by simp [listedTransactions, txWrite, hp]) ?_
  rcases State.memWrite_cases s s.params.rsv0Addr [s.params.rsv0Val] (inSpace_byte _) with h | ⟨ks, h⟩
  · simp only [State.writeByteThen, State.writeThen, h]
    refine .write _ _ s.params.rsv1Addr [s.params.rsv1Val] (inSpace_byte _) h1 (by simp [listedTransactions, txWrite, hp]) ?_
    simp only [State.record_params, State.setRegs_params, State.interleave_params]
    rcases State.memWrite_cases _ s.params.rsv1Addr [s.params.rsv1Val] (inSpace_byte _) with h' | ⟨ks, h'⟩
    · rw [h']
      refine Run.readThen (by simp [listedTransactions, txRead, regExtension]) fun r s => ?_
      refine .load _ _ (initControl (r.getD 2 0)) rfl ?_
      exact Run.writeThen (fun _ => by decide) (by simp [listedTransactions, txWrite, regExtension]) fun s =>
        inspectFlag_run p _ s _
    · rw [h']; exact Run.raise _
  · simp only [State.writeByteThen, State.writeThen, h]; exact Run.raise _

theorem drainFlags_run : Run (· ∈ passTransactions) false sep s s.drainFlags := by
  unfold State.drainFlags
  refine .read _ _ regFlag 1 (inSpace_byte _) (by simp [passTransactions, txRead, regFlag]) ?_
  rcases s.memRead regFlag 1 (inSpace_byte _) with ⟨_ | bs, s'⟩
  · exact .emit _ _ _ (.done _)
  · refine .emit _ _ (drainedEvents (bs.getD 0 0)) ?_
    refine .write _ _ regFlag [drainedFlag (bs.getD 0 0)] (inSpace_byte _) (fun _ => by decide)
      (by simp [passTransactions, txWrite, regFlag]) ?_
    dsimp only
    rcases (s'.emit (drainedEvents (bs.getD 0 0))).memWrite regFlag [drainedFlag (bs.getD 0 0)]
        (inSpace_byte _) with ⟨_ | _, s''⟩
    · exact .emit _ _ _ (.done _)
    · exact .done _

end bodies

end Sys2Proof.Machine
end

