-- ==== Sys2Proof/Laws/Step.lean ====
section
/-! SUPPORT. What an operation, a turn and a step can do, said once: the inversion lemmas of `exec`, `takeTurn` and
`step`. -/

namespace Sys2Proof.Machine

/-- The reserved addresses of an admissible device are not Control (00_scope.md R7). -/
theorem Params.wf_not_control {p : Params} (h : p.wf = true) : p.rsv0Addr ≠ regControl ∧ p.rsv1Addr ≠ regControl := by
  simp only [Params.wf, Bool.and_eq_true, Bool.not_eq_true'] at h
  constructor
  · intro e; have := h.1.2; rw [e] at this; revert this; decide
  · intro e; have := h.2; rw [e] at this; revert this; decide

/-- A next state of an operation: only the result is new; or the operation waits for the lock; or its body has run
under the lock; or it is SHUTDOWN's. -/
theorem exec_cases {i : Instr} {s t : State} (h : exec i s = .next t) :
    (∃ r, t = s.setResult r)
      ∨ s.lock ≠ .free ∧ t = s.waitToIssue i
      ∨ s.lock = .free ∧ i ≠ .shutdown ∧ (∃ u, t = u.setLock .free
          ∧ ∀ sep, (sep = true → i = .init → s.params.wf = true) →
            Run (· ∈ listedTransactions s.params i) (decide (i = .init)) sep (s.setLock .foreground) u)
      ∨ s.lock = .free ∧ i = .shutdown ∧ s.destroyed = false ∧ t = s.teardown := by
  have locked : ∀ {i : Instr} {body : State → State}, i ≠ .shutdown → s.locked i body = .next t →
      (∀ sep, (sep = true → i = .init → s.params.wf = true) →
        Run (· ∈ listedTransactions s.params i) (decide (i = .init)) sep (s.setLock .foreground)
          (body (s.setLock .foreground))) →
      s.lock ≠ .free ∧ t = s.waitToIssue i
      ∨ s.lock = .free ∧ i ≠ .shutdown ∧ (∃ u, t = u.setLock .free
          ∧ ∀ sep, (sep = true → i = .init → s.params.wf = true) →
            Run (· ∈ listedTransactions s.params i) (decide (i = .init)) sep (s.setLock .foreground) u) := by
    intro i body hi h hr
    rcases State.locked_cases s i body with ⟨hl, e⟩ | ⟨hl, e⟩
    · rw [e] at h; cases h; exact .inr ⟨hl, hi, _, rfl, hr⟩
    · rw [e] at h; cases h; exact .inl ⟨hl, rfl⟩
  cases i with
  | bcd2bin b => cases h; exact .inl ⟨_, rfl⟩
  | bin2bcd v => cases h; exact .inl ⟨_, rfl⟩
  | decode r => cases h; exact .inl ⟨_, rfl⟩
  | encode t => cases h; exact .inl ⟨_, rfl⟩
  | btst b m => cases h; exact .inl ⟨_, rfl⟩
  | bset b m => cases h; exact .inl ⟨_, rfl⟩
  | bclr b m => cases h; exact .inl ⟨_, rfl⟩
  | getTime =>
    rcases locked (by simp) (State.whenLive_next h).2 fun sep _ => getTimeBody_run _ sep _ with c | c
    · exact .inr (.inl c)
    · exact .inr (.inr (.inl c))
  | setTime u =>
    obtain ⟨-, h⟩ := State.whenLive_next h
    split at h
    · rcases locked (by simp) h fun sep _ => setTimeBody_run _ sep _ u with c | c
      · exact .inr (.inl c)
      · exact .inr (.inr (.inl c))
    · cases h; exact .inl ⟨_, rfl⟩
  | getAlarm =>
    obtain ⟨-, ⟨-, h⟩ | ⟨-, h⟩⟩ := State.whenAlarm_next h
    · rcases locked (by simp) h fun sep _ => getAlarmBody_run _ sep _ with c | c
      · exact .inr (.inl c)
      · exact .inr (.inr (.inl c))
    · exact .inl ⟨_, h⟩
  | setAlarm a =>
    obtain ⟨-, ⟨-, h⟩ | ⟨-, h⟩⟩ := State.whenAlarm_next h
    · split at h
      · rcases locked (by simp) h fun sep _ => setAlarmBody_run _ sep _ a with c | c
        · exact .inr (.inl c)
        · exact .inr (.inr (.inl c))
      · cases h; exact .inl ⟨_, rfl⟩
    · exact .inl ⟨_, h⟩
  | alarmEn e =>
    obtain ⟨-, ⟨-, h⟩ | ⟨-, h⟩⟩ := State.whenAlarm_next h
    · rcases locked (by simp) h fun sep _ => alarmEnBody_run _ sep _ e with c | c
      · exact .inr (.inl c)
      · exact .inr (.inr (.inl c))
    · exact .inl ⟨_, h⟩
  | init =>
    rcases locked (by simp) (State.whenFresh_next h).2 fun sep hs =>
      initBody_run _ sep _ (fun e => (Params.wf_not_control (hs e rfl)).1)
        (fun e => (Params.wf_not_control (hs e rfl)).2)
        rfl with c | c
    · exact .inr (.inl c)
    · exact .inr (.inr (.inl c))
  | shutdown =>
    obtain ⟨hp, h⟩ := State.whenNotDestroyed_next h
    have hd : s.destroyed = false := by
      cases hd : s.destroyed
      · rfl
      · exact absurd (by simp [State.phase, hd]) hp
    split at h
    · next hl => cases h; exact .inr (.inr (.inr ⟨hl, rfl, hd, rfl⟩))
    · next hl => cases h; exact .inr (.inl ⟨hl, rfl⟩)

/-- What SHUTDOWN makes of the state once it has the lock (43_device.md R214). -/
theorem State.teardown_cases (s : State) :
    (s.pstate ≠ .handling
        ∧ s.teardown = ((((s.setShutdown).setPState .disarmed).setLock .free).setDestroyed).succeed .none)
      ∨ (s.pstate = .handling ∧ s.nextChoice.awaitTask = false
        ∧ s.teardown
          = (((((s.setShutdown).setLock .free).advanceChoice).setPState .disarmed).setDestroyed).succeed .none)
      ∨ (s.pstate = .handling ∧ s.nextChoice.awaitTask = true
        ∧ s.teardown
          = ((((s.setShutdown).setLock .free).advanceChoice).drainPass.setDestroyed).succeed .none) := by
  cases hp : s.pstate with
  | unarmed => exact .inl ⟨by simp, by simp [State.teardown, State.underLock, State.maskLine, State.settleTask, hp]; rfl⟩
  | armed => exact .inl ⟨by simp, by simp [State.teardown, State.underLock, State.maskLine, State.settleTask, hp]; rfl⟩
  | disarmed =>
    refine .inl ⟨by simp, ?_⟩
    simp only [State.teardown, State.underLock, State.maskLine, State.settleTask, State.setLock_pstate, hp,
      reduceCtorEq, or_self, if_false, State.setShutdown_pstate]
    have e : s.setShutdown.setPState .disarmed = s.setShutdown := by
      rw [show (PState.disarmed) = s.setShutdown.pstate from hp.symm]; rfl
    rw [e]
    rfl
  | handling =>
    have hn : (s.underLock .foreground State.maskLine).nextChoice = s.nextChoice := by
      simp [State.underLock, State.maskLine, hp, State.nextChoice]
    have hh : (s.underLock .foreground State.maskLine) = s.setShutdown.setLock .free := by
      simp [State.underLock, State.maskLine, hp]; rfl
    cases ha : s.nextChoice.awaitTask
    · refine .inr (.inl ⟨rfl, rfl, ?_⟩)
      rw [hh] at hn
      simp [State.teardown, hh, State.settleTask, hp, hn, ha]
    · refine .inr (.inr ⟨rfl, rfl, ?_⟩)
      rw [hh] at hn
      simp [State.teardown, hh, State.settleTask, hp, hn, ha]

/-- What DRAIN does: nothing where it is not enabled, a wait where the lock is held, else one pass. -/
theorem State.drain_cases (s : State) :
    ((s.pstate ≠ .handling ∨ s.destroyed = true) ∧ s.drain = s)
      ∨ (s.pstate = .handling ∧ s.destroyed = false ∧ s.lock ≠ .free
        ∧ s.drain = s.setInputs (.turn .drain :: s.inputs))
      ∨ (s.pstate = .handling ∧ s.destroyed = false ∧ s.lock = .free ∧ s.drain = s.drainPass) := by
  by_cases hp : s.pstate = .handling
  · cases hd : s.destroyed
    · by_cases hl : s.lock = .free
      · exact .inr (.inr ⟨hp, rfl, hl, by simp [State.drain, State.taskScheduled, hp, hd, hl]⟩)
      · exact .inr (.inl ⟨hp, rfl, hl, by simp [State.drain, State.taskScheduled, hp, hd, hl]⟩)
    · exact .inl ⟨.inr rfl, by simp [State.drain, hd]⟩
  · exact .inl ⟨.inl hp, by simp [State.drain, State.taskScheduled, hp]⟩

/-- A pass: a run of Flag transactions under the lock, then the re-arm (60_exceptions.md R255). -/
theorem State.drainPass_run (s : State) (sep : Bool) :
    ∃ u, Run (· ∈ passTransactions) false sep (s.setLock .deferred) u
      ∧ s.drainPass = (u.rearm).setLock .free :=
  ⟨_, drainFlags_run sep _, rfl⟩

/-- Taking a line of the schedule changes the schedule and the count of draws only. -/
theorem State.advanceInput_eq (s : State) :
    s.advanceInput = { s with inputs := s.advanceInput.inputs, drawCount := s.advanceInput.drawCount } := by
  unfold State.advanceInput; split <;> rfl

/-- The operation a decodable frame holds is the next one. -/
theorem State.nextOperation_issue {s : State} {f : Frame} {rest : List Input} {i : Instr}
    (h : s.inputs = .issue f :: rest) (hd : decodeFrame f = .ok i) : s.nextOperation = some i := by
  simp [State.nextOperation, State.nextInput, h, hd, Except.toOption]

/-- An operation that was called, or waits, is the next one. -/
theorem State.nextOperation_call {s : State} {rest : List Input} {i : Instr} (h : s.inputs = .call i :: rest) :
    s.nextOperation = some i := by
  simp [State.nextOperation, State.nextInput, h]

/-- What a step can do: an operation that a frame holds, a rejected frame, an operation that was called or waited, or a
turn of another agent. -/
theorem step_cases {s t : State} (h : step s = .next t) :
    (∃ f rest i, s.inputs = .issue f :: rest ∧ decodeFrame f = .ok i ∧ exec i (s.setInputs rest) = .next t)
      ∨ (∃ f rest e, s.inputs = .issue f :: rest ∧ decodeFrame f = .error e ∧ s.destroyed = false
        ∧ t = (s.setInputs rest).raise .unsupportedCommand)
      ∨ (∃ rest i, s.inputs = .call i :: rest ∧ exec i (s.setInputs rest) = .next t)
      ∨ ∃ u, s.nextInput = .turn u ∧ t = s.advanceInput.takeTurn u := by
  unfold step at h
  cases hi : s.inputs with
  | nil =>
    have hn : s.nextInput = .turn (Config.freeTurn s.drawCount) := by simp [State.nextInput, hi]
    rw [hn] at h
    cases h; exact .inr (.inr (.inr ⟨_, hn, rfl⟩))
  | cons x rest =>
    have hn : s.nextInput = x := by simp [State.nextInput, hi]
    have ha : s.advanceInput = s.setInputs rest := by simp [State.advanceInput, hi]
    rw [hn, ha] at h
    cases x with
    | turn u => cases h; exact .inr (.inr (.inr ⟨u, hn, by rw [ha]⟩))
    | call i => exact .inr (.inr (.inl ⟨rest, i, rfl, h⟩))
    | issue f =>
      simp only [runFrame] at h
      cases hd : decodeFrame f with
      | ok i => rw [hd] at h; exact .inl ⟨f, rest, i, rfl, hd, h⟩
      | error e =>
        rw [hd] at h
        obtain ⟨hp, h⟩ := State.whenNotDestroyed_next h
        refine .inr (.inl ⟨f, rest, e, rfl, hd, ?_, by cases h; rfl⟩)
        cases hx : s.destroyed
        · rfl
        · exact absurd (by simp [State.phase, hx]) hp

end Sys2Proof.Machine
end

