-- ==== Sys2Proof/Tests/Slice0.lean ====
section
/-! SUPPORT. Tests: ill-formed operands, words written out from 30_encoding.md, one-step tests whose expected results
are the vectors of 95_test_vectors.md (named at each), and a witness for the hypotheses of every statement. -/

namespace Sys2Proof.Tests

open Sys2Proof.Machine

/-! ## Well-formedness: one ill-formed operand for each check -/

theorem test_bin2bcd_256_is_ill_formed : Instr.wellFormed (.bin2bcd 256) = false := by decide
theorem test_second_256_is_ill_formed : Instr.wellFormed (.encode ⟨256, 0, 0, 0, 1, 1, 0⟩) = false := by decide
theorem test_minute_256_is_ill_formed : Instr.wellFormed (.setTime ⟨0, 256, 0, 0, 1, 1, 0⟩) = false := by decide
theorem test_hour_256_is_ill_formed : Instr.wellFormed (.encode ⟨0, 0, 256, 0, 1, 1, 0⟩) = false := by decide
theorem test_weekday_256_is_ill_formed : Instr.wellFormed (.setTime ⟨0, 0, 0, 256, 1, 1, 0⟩) = false := by decide
theorem test_mday_256_is_ill_formed : Instr.wellFormed (.encode ⟨0, 0, 0, 0, 256, 1, 0⟩) = false := by decide
theorem test_month_256_is_ill_formed : Instr.wellFormed (.setTime ⟨0, 0, 0, 0, 1, 256, 0⟩) = false := by decide
theorem test_year_256_is_ill_formed : Instr.wellFormed (.encode ⟨0, 0, 0, 0, 1, 1, 256⟩) = false := by decide
theorem test_alarm_minute_256_is_ill_formed : Instr.wellFormed (.setAlarm ⟨256, 0, 0, true⟩) = false := by decide
theorem test_alarm_hour_256_is_ill_formed : Instr.wellFormed (.setAlarm ⟨0, 256, 0, true⟩) = false := by decide
theorem test_alarm_day_256_is_ill_formed : Instr.wellFormed (.setAlarm ⟨0, 0, 256, true⟩) = false := by decide

/-! ## Words written out from R100 and R101: `c0` in bits 7:0, `p0` in 15:8, and so on -/

/-- 01 59 (95_test_vectors.md 2.1). -/
theorem test_decode_bcd2bin : decodeTableWord 64 0x0000000000005901 = some (.bcd2bin 0x59) := by decide
/-- 02 3B (2.1). -/
theorem test_decode_bin2bcd : decodeTableWord 64 0x0000000000003B02 = some (.bin2bcd 59) := by decide
/-- 03 00 00 00 00 29 02 23 (2.2, D-7). -/
theorem test_decode_decode :
    decodeTableWord 64 0x2302290000000003 = some (.decode ⟨0x00, 0x00, 0x00, 0x00, 0x29, 0x02, 0x23⟩) := by decide
/-- 04 3B 3B 17 06 1F 0C 63 (2.3, N-5). -/
theorem test_decode_encode :
    decodeTableWord 64 0x630C1F06173B3B04 = some (.encode ⟨59, 59, 23, 6, 31, 12, 99⟩) := by decide
/-- 08 2A 08 (2.4). -/
theorem test_decode_btst : decodeTableWord 64 0x0000000000082A08 = some (.btst 0x2A 0x08) := by decide
/-- 09 22 40 (2.4). -/
theorem test_decode_bset : decodeTableWord 64 0x0000000000402209 = some (.bset 0x22 0x40) := by decide
/-- 0A 2A 08 (2.4). -/
theorem test_decode_bclr : decodeTableWord 64 0x0000000000082A0A = some (.bclr 0x2A 0x08) := by decide
/-- 10, the operand bytes ignored (R103). -/
theorem test_decode_getTime : decodeTableWord 64 0xFFEEDDCCBBAA9910 = some .getTime := by decide
/-- 11 1E 0F 0C 03 19 09 17 (R111). -/
theorem test_decode_setTime :
    decodeTableWord 64 0x170919030C0F1E11 = some (.setTime ⟨30, 15, 12, 3, 25, 9, 23⟩) := by decide
/-- 12 (2.6). -/
theorem test_decode_getAlarm : decodeTableWord 8 0x12 = some .getAlarm := by decide
/-- 13 3C 07 00 01 (2.7). -/
theorem test_decode_setAlarm : decodeTableWord 64 0x0000000100073C13 = some (.setAlarm ⟨60, 7, 0, true⟩) := by decide
/-- 14 80: any non-zero byte is true (R102). -/
theorem test_decode_alarmEn : decodeTableWord 16 0x8014 = some (.alarmEn true) := by decide
/-- 15 (R111). -/
theorem test_decode_init : decodeTableWord 64 0x0000000000000015 = some .init := by decide
/-- 16 (program P7). -/
theorem test_decode_shutdown : decodeTableWord 64 0x0000000000000016 = some .shutdown := by decide
/-- The opcodes next to the fourteen name no operation (R104). -/
theorem test_decode_unknown :
    [0x00, 0x05, 0x07, 0x0B, 0x0F, 0x17, 0xFF].map (decodeTableWord 64)
      = [none, none, none, none, none, none, none] := by decide

/-! ## A small device -/

/-- A choice in which nobody steps and the transaction succeeds. -/
def calm : Choice := ⟨[], .ok, false⟩

/-- A choice in which the transaction fails and stores what `ks` says. -/
def failing (ks : List Bool) : Choice := ⟨[], .fails ks, false⟩

/-- The test parameters of 95_test_vectors.md. -/
def testParams : Params := ⟨true, 0x17, 0x1C, 0xA5, 0x5A, 0, .draw⟩

/-- A device in state `p` that holds `regs` and `cache`, eight calm choices ahead. -/
def device (p : PState) (regs : List Host.Cell) (cache : Byte) : State :=
  { State.reset with
    params := testParams
    pstate := p
    regs := regs.foldl (fun m c => Memory.write m c.1 c.2) []
    cache := cache
    choices := List.replicate 8 calm }

/-- The state an operation ends in, if it ends. -/
def after (i : Instr) (s : State) : Option State :=
  match exec i s with
  | .next t => some t
  | .fault _ => none
  | .refused _ => none

/-- The state a step ends in, if it ends. -/
def stepped (s : State) : Option State :=
  match step s with
  | .next t => some t
  | .fault _ => none
  | .refused _ => none

theorem test_reset_registers_are_canonical : Memory.wf State.reset.regs = true := by decide

/-! ## One-step tests -/

/-- 2.1: 0xFF gives 165, response 00 A5. -/
theorem test_bcd2bin_ff :
    ((after (.bcd2bin 0xFF) (device .unarmed [] 0)).bind State.response) = some 0x000000000000A500#64 := by decide
/-- 2.1: 255 gives 0x55. -/
theorem test_bin2bcd_255 :
    ((after (.bin2bcd 255) (device .unarmed [] 0)).map (·.result)) = some (some (.ok (.byte 0x55))) := by decide
/-- D-20: bits outside the masks are ignored. -/
theorem test_decode_masks :
    ((after (.decode ⟨0xB0, 0x95, 0xD2, 0x83, 0xE5, 0xE9, 0x23⟩) (device .armed [] 0)).map (·.result))
      = some (some (.ok (.time ⟨30, 15, 12, 3, 25, 9, 23⟩))) := by decide
/-- D-7: 29 February of year 23. -/
theorem test_decode_no_leap_day :
    ((after (.decode ⟨0, 0, 0, 0, 0x29, 0x02, 0x23⟩) (device .armed [] 0)).bind State.response)
      = some 0x0000000000000002#64 := by decide
/-- N-5: response 00 59 59 23 06 31 12 99. -/
theorem test_encode_year_99 :
    ((after (.encode ⟨59, 59, 23, 6, 31, 12, 99⟩) (device .armed [] 0)).bind State.response)
      = some 0x9912310623595900#64 := by decide
/-- N-3: a full year is reduced mod 100. -/
theorem test_encode_full_year :
    ((after (.encode ⟨30, 15, 12, 3, 25, 9, 2023⟩) (device .armed [] 0)).map (·.result))
      = some (some (.ok (.image ⟨0x30, 0x15, 0x12, 0x03, 0x25, 0x09, 0x23⟩))) := by decide
/-- 2.4: some bit of FSEL. -/
theorem test_btst_some_bit :
    ((after (.btst 0x40 0xC0) (device .armed [] 0)).map (·.result)) = some (some (.ok (.bool true))) := by decide
/-- 2.4: response 62. -/
theorem test_bset :
    ((after (.bset 0x22 0x40) (device .armed [] 0)).bind State.response) = some 0x0000000000006200#64 := by decide
/-- 2.4: response 22. -/
theorem test_bclr :
    ((after (.bclr 0x2A 0x08) (device .armed [] 0)).bind State.response) = some 0x0000000000002200#64 := by decide
/-- Program P1: response 00 1E 0F 0C 03 19 09 17. -/
theorem test_getTime :
    ((after .getTime (device .armed [(0x10, 0x30), (0x11, 0x15), (0x12, 0x12), (0x13, 0x03), (0x14, 0x25),
      (0x15, 0x09), (0x16, 0x23)] 0)).bind State.response) = some 0x170919030C0F1E00#64 := by decide
/-- Program P1: the trace of SETTIME. -/
theorem test_setTime_trace :
    ((after (.setTime ⟨30, 15, 12, 3, 25, 9, 23⟩) (device .armed [] 0)).map (·.trace))
      = some [⟨txRead 0x1F 1, [0x00], true⟩, ⟨txWrite 0x1F 1, [0x40], true⟩,
          ⟨txWrite 0x10 7, [0x30, 0x15, 0x12, 0x03, 0x25, 0x09, 0x23], true⟩,
          ⟨txRead 0x1F 1, [0x40], true⟩, ⟨txWrite 0x1F 1, [0x00], true⟩] := by decide
/-- Program P6's variant: the second Control read fails, STOP stays set. -/
theorem test_setTime_halted :
    ((after (.setTime ⟨0, 0, 0, 0, 1, 1, 0⟩)
        { device .armed [(0x1F, 0x08)] 0x08 with choices := [calm, calm, calm, failing []] }).map
      fun t => (t.result, t.x 0x1F, t.cache))
      = some (some (.error (.transportError ⟨0x1F, 1, .read⟩)), 0x48, 0x48) := by decide
/-- 2.6, first row: response 00 1E 07 00 01 01. -/
theorem test_getAlarm_pending :
    ((after .getAlarm (device .armed [(0x18, 0x30), (0x19, 0x07), (0x1A, 0x80), (0x1E, 0x08)] 0x08)).bind
      State.response) = some 0x0000010100071E00#64 := by decide
/-- 2.6, third row: AF set, alarm disabled. -/
theorem test_getAlarm_disabled :
    ((after .getAlarm (device .armed [(0x18, 0x30), (0x19, 0x07), (0x1A, 0x80), (0x1E, 0x08)] 0x00)).map (·.result))
      = some (some (.ok (.alarm ⟨30, 7, 0, false⟩ false))) := by decide
/-- 2.7, fifth row: the other cache bits are written back. -/
theorem test_setAlarm_trace :
    ((after (.setAlarm ⟨1, 2, 3, true⟩)
        (device .armed [(0x1D, 0x30), (0x1E, 0x2A), (0x1F, 0x48)] 0x48)).map (·.trace))
      = some [⟨txWrite 0x1F 1, [0x40], true⟩, ⟨txWrite 0x18 2, [0x01, 0x02], true⟩, ⟨txRead 0x1D 1, [0x30], true⟩,
          ⟨txWrite 0x1D 1, [0x38], true⟩, ⟨txWrite 0x1A 1, [0x03], true⟩, ⟨txRead 0x1E 1, [0x2A], true⟩,
          ⟨txWrite 0x1E 1, [0x22], true⟩, ⟨txWrite 0x1F 1, [0x48], true⟩] := by decide
/-- 2.7, k = 2: the hour is stored and the minute is not, as R69 allows. -/
theorem test_setAlarm_half_stored :
    ((after (.setAlarm ⟨30, 7, 0, true⟩)
        { device .armed [(0x18, 0x11), (0x19, 0x22), (0x1A, 0x33), (0x1F, 0x08)] 0x08 with
            choices := [calm, failing [false, true]] }).map
      fun t => (t.x 0x18, t.x 0x19, t.x 0x1A, t.x 0x1F, t.cache))
      = some (0x11, 0x07, 0x33, 0x00, 0x00) := by decide
/-- 2.8, first row. -/
theorem test_alarmEn_enables :
    ((after (.alarmEn true) (device .armed [] 0x00)).map fun t => (t.trace, t.cache))
      = some ([⟨txRead 0x1E 1, [0x00], true⟩, ⟨txWrite 0x1E 1, [0x00], true⟩, ⟨txWrite 0x1F 1, [0x08], true⟩],
          0x08) := by decide
/-- 2.8, second row: no Control write. -/
theorem test_alarmEn_again :
    ((after (.alarmEn true) (device .armed [(0x1E, 0x08), (0x1F, 0x08)] 0x08)).map fun t => (t.trace, t.cache))
      = some ([⟨txRead 0x1E 1, [0x08], true⟩, ⟨txWrite 0x1E 1, [0x00], true⟩], 0x08) := by decide
/-- E3. -/
theorem test_init_zeroes :
    ((after .init (device .unarmed [(0x1D, 0xFF), (0x1E, 0x02), (0x1F, 0xFF)] 0)).map fun t => (t.trace, t.cache))
      = some ([⟨txWrite 0x17 1, [0xA5], true⟩, ⟨txWrite 0x1C 1, [0x5A], true⟩,
          ⟨txRead 0x1D 3, [0xFF, 0x02, 0xFF], true⟩, ⟨txWrite 0x1D 1, [0x2F], true⟩,
          ⟨txWrite 0x1E 1, [0x00], true⟩, ⟨txWrite 0x1F 1, [0x00], true⟩], 0x00) := by decide
/-- R213: without zeroing the cache has TEST and the reserved bits clear, the register keeps them. -/
theorem test_init_keeps_control :
    ((after .init (device .unarmed [(0x1D, 0x10), (0x1E, 0x45), (0x1F, 0x83)] 0)).map
      fun t => (t.result, t.x 0x1D, t.x 0x1E, t.x 0x1F, t.cache, t.pstate))
      = some (some (.ok (.bool false)), 0x00, 0x45, 0x83, 0x00, .armed) := by decide
/-- Program P7, cancelled. -/
theorem test_shutdown_cancels :
    ((after .shutdown (device .handling [(0x1E, 0x08), (0x1F, 0x08)] 0x08)).map
      fun t => (t.pstate, t.shutdown, t.destroyed, t.trace, t.events))
      = some (.disarmed, true, true, [], []) := by decide
/-- Program P7, awaited. -/
theorem test_shutdown_awaits :
    ((after .shutdown { device .handling [(0x1E, 0x08), (0x1F, 0x08)] 0x08 with
        choices := [⟨[], .ok, true⟩, calm, calm] }).map
      fun t => (t.pstate, t.x 0x1E, t.destroyed, t.events))
      = some (.disarmed, 0x00, true, [.alarmFired]) := by decide

/-- R255's example: Flag 0x3A. -/
theorem test_pass_of_all_flags :
    ((stepped { device .handling [(0x1E, 0x3A)] 0 with inputs := [.turn .drain] }).map
      fun t => (t.events, t.x 0x1E, t.pstate))
      = some ([.clockUnreliable, .periodicTick, .alarmFired, .updateTick], 0x02, .armed) := by decide
/-- Program P9: the flag set inside the pass is lost. -/
theorem test_pass_loses_a_flag :
    ((stepped { device .handling [(0x1E, 0x08), (0x1F, 0x18)] 0x18 with
        inputs := [.turn .drain], choices := [calm, ⟨[.pTimer], .ok, false⟩] }).map
      fun t => (t.events, t.x 0x1E, t.irqOut)) = some ([.alarmFired], 0x00, false) := by decide
/-- Program P2: the line rises and the interrupt is taken. -/
theorem test_irq :
    ((stepped { device .armed [(0x1E, 0x08), (0x1F, 0x08)] 0x08 with inputs := [.turn (.env .irq)] }).map (·.pstate))
      = some .handling := by decide

/-! ## Witnesses: for each statement with hypotheses, concrete values that meet them all -/

/-- A live device with a line, its lock free. -/
def live : State := device .armed [] 0
/-- A device before INIT. -/
def fresh : State := device .unarmed [] 0
/-- A device after SHUTDOWN. -/
def gone : State := { device .disarmed [] 0 with shutdown := true, destroyed := true }
/-- A device in Handling with a pass next, Flag holding `f`, and the given choices ahead. -/
def draining (f : Byte) (cs : List Choice) : State :=
  { device .handling [(0x1E, f), (0x1F, 0x38)] 0x38 with inputs := [.turn .drain], choices := cs }
/-- A device without an interrupt line. -/
def lineless : State := { device .disarmed [] 0 with params := { testParams with hasIrq := false } }
/-- An image other agents may draw. -/
def someImage : TimeImage := ⟨0x59, 0x59, 0x23, 0x06, 0x31, 0x12, 0x99⟩
/-- A live device in whose operations the other agents step before every transaction. -/
def busy : State :=
  { device .armed [(0x1E, 0x08), (0x1F, 0x08)] 0x08 with
      choices := List.replicate 8 ⟨[.pOsc (some someImage), .pTime someImage, .pAlarm true, .pTimer, .pUpdate, .irq],
        .ok, false⟩ }

/-- No opcode is 0x17. -/
theorem no_opcode_17 (i : Instr) : i.opcode ≠ frameByte 0x17#64 0 := by
  have h : frameByte 0x17#64 0 = 0x17#8 := by decide
  rw [h]
  cases i <;> exact fun e => absurd e (by unfold Instr.opcode; simp)

theorem witness_DecodeEncodeRoundTrip :
    Instr.wellFormed (.setTime ⟨255, 255, 255, 255, 255, 255, 255⟩) = true
    ∧ Instr.wellFormed (.setAlarm ⟨255, 255, 255, false⟩) = true := by decide

theorem witness_DecodeIgnoresUnusedOperandBytes :
    (∃ i, decodeFrame 0x16#64 = .ok i)
    ∧ (∀ k ≤ operandCount (frameByte 0x0000000000000116#64 0),
        frameByte 0x0000000000000116#64 k = frameByte 0xFFFFFFFFFFFFFF16#64 k)
    ∧ (∀ k ≤ operandCount (frameByte 0x1100000001071E13#64 0),
        frameByte 0x1100000001071E13#64 k = frameByte 0x2200000001071E13#64 k) :=
  ⟨⟨.shutdown, rfl⟩, by decide, by decide⟩

theorem witness_UnknownOpcodeIsUnsupported :
    ({ live with inputs := [.issue 0x17#64] }).inputs = .issue 0x17#64 :: [] ∧ live.destroyed = false
    ∧ ({ gone with inputs := [.issue 0x17#64] }).inputs = .issue 0x17#64 :: [] ∧ gone.destroyed = true
    ∧ ∀ i : Instr, i.opcode ≠ frameByte 0x17#64 0 :=
  ⟨rfl, rfl, rfl, rfl, no_opcode_17⟩

theorem witness_StepRunsTheDecodedOperation :
    ({ live with inputs := [.issue 0x15#64] }).inputs = .issue 0x15#64 :: [] ∧ decodeFrame 0x15#64 = .ok .init
    ∧ decodeTableWord 8 0x10 = some .getTime
    ∧ ({ live with inputs := [.call (.bin2bcd 2023)] }).inputs = .call (.bin2bcd 2023) :: []
    ∧ (draining 0 []).inputs = .turn .drain :: [] :=
  ⟨rfl, rfl, by decide, rfl, rfl⟩

theorem witness_DeviceFramesCarryTheirOperands :
    frameByte 0x10#64 0 = 0x10 ∧ frameByte 0x170919030C0F1E11#64 0 = 0x11 ∧ frameByte 0x12#64 0 = 0x12
    ∧ frameByte 0xFF001F173B13#64 0 = 0x13 ∧ frameByte 0x8014#64 0 = 0x14 ∧ frameByte 0x15#64 0 = 0x15
    ∧ frameByte 0x16#64 0 = 0x16 := by decide

theorem witness_Bcd2binIsTenHighPlusLow : frameByte 0xFF01#64 0 = 0x01 := by decide

theorem witness_Bin2bcdPacksTwoDigits : frameByte 0xFF02#64 0 = 0x02 ∧ 99 < 100 := by decide

theorem witness_DecodeAnswersValidFieldsOnly : frameByte 0x2309250312153003#64 0 = 0x03 := by decide

theorem witness_EncodePacksEveryField : frameByte 0x630C1F06173B3B04#64 0 = 0x04 := by decide

theorem witness_CenturyWindowAndLeapYears : 69 ≤ 99 ∧ 70 ≤ 99 ∧ 99 ≤ 99 := by decide

theorem witness_EncodeThenDecodeReturnsTheTime :
    validTime ⟨59, 59, 23, 6, 29, 2, 24⟩ = true ∧ validSupplied ⟨0, 0, 0, 0, 1, 1, 2069⟩ = true := by decide

theorem witness_DecodeThenEncodeClearsOutsideTheMasks :
    decodeImage ⟨0xB0, 0x95, 0xD2, 0x83, 0xE5, 0xE9, 0x23⟩ = some ⟨30, 15, 12, 3, 25, 9, 23⟩
    ∧ ∀ b ∈ imageBytes ⟨0xB0 &&& 0x7F, 0x95 &&& 0x7F, 0xD2 &&& 0x3F, 0x83 &&& 0x7F, 0xE5 &&& 0x3F, 0xE9 &&& 0x1F,
        0x23⟩, b.toNat / 16 ≤ 9 ∧ b.toNat % 16 ≤ 9 := by decide

theorem witness_DecodedTimesAreInRange :
    decodeImage ⟨0x59, 0x59, 0x23, 0x06, 0x31, 0x12, 0x99⟩ = some ⟨59, 59, 23, 6, 31, 12, 99⟩ := by decide

theorem witness_BitAccessorsActOnTheMask :
    (0x01#8 : Byte) ≠ 0 ∧ frameByte 0x082A08#64 0 = 0x08 ∧ frameByte 0x402209#64 0 = 0x09
    ∧ frameByte 0x082A0A#64 0 = 0x0A := by decide

theorem witness_AdmissionByPhase :
    isPure (.btst 0 0) = true ∧ fresh.phase = .fresh ∧ live.phase = .live ∧ lineless.phase = .live
    ∧ gone.phase = .destroyed ∧ isLiveIo .getTime = true
    ∧ ({ fresh with inputs := [.issue 0x17#64] }).phase ≠ .destroyed
    ∧ ({ gone with inputs := [.issue 0x17#64] }).phase = .destroyed
    ∧ ∀ i : Instr, i.opcode ≠ frameByte 0x17#64 0 :=
  ⟨by decide, by decide, by decide, by decide, by decide, by decide, by decide, by decide, no_opcode_17⟩

theorem witness_AlarmUnsupportedWithoutALine : lineless.phase = .live ∧ lineless.params.hasIrq = false := by decide

theorem witness_SuppliedValuesOutOfRangeChangeNothing :
    live.phase = .live ∧ live.params.hasIrq = true ∧ validTime { (⟨60, 0, 0, 0, 1, 1, 100⟩ : CalendarTime) with
      year := 100 % 100 } = false ∧ 59 < (⟨60, 0, 0, true⟩ : AlarmSpec).minute
    ∧ 23 < (⟨0, 24, 0, true⟩ : AlarmSpec).hour ∧ 31 < (⟨0, 0, 32, true⟩ : AlarmSpec).day := by decide

/-- Each clause, with the lock free and with it held. -/
theorem witness_OperationsHoldTheLockOrWaitForIt :
    let held := { live with lock := .deferred }
    (live.lock = .free ∧ live.phase = .live ∧ live.params.hasIrq = true)
    ∧ (held.lock ≠ .free ∧ held.phase = .live ∧ held.params.hasIrq = true)
    ∧ validSupplied ⟨30, 15, 12, 3, 25, 9, 2023⟩ = true ∧ validAlarm ⟨59, 23, 31, true⟩ = true
    ∧ (fresh.lock = .free ∧ fresh.phase = .fresh ∧ fresh.phase ≠ .destroyed)
    ∧ (({ fresh with lock := .deferred }).lock ≠ .free ∧ ({ fresh with lock := .deferred }).phase = .fresh)
    ∧ ((draining 0 []).lock = .free ∧ (draining 0 []).pstate = .handling ∧ (draining 0 []).destroyed = false)
    ∧ (draining 0 []).inputs = .turn .drain :: []
    ∧ ({ draining 0 [] with lock := .foreground }).lock ≠ .free := by
  refine ⟨by decide, by decide, by decide, by decide, by decide, by decide, by decide, rfl, by decide⟩

/-- R145: the year 2023 is kept whole while SETTIME waits for the lock, and stored as 23 when it runs. -/
theorem test_waiting_keeps_the_full_year :
    ((after (.setTime ⟨30, 15, 12, 3, 25, 9, 2023⟩) { live with lock := .deferred }).map (·.inputs))
      = some [.call (.setTime ⟨30, 15, 12, 3, 25, 9, 2023⟩)]
    ∧ ((stepped { live with inputs := [.call (.setTime ⟨30, 15, 12, 3, 25, 9, 2023⟩)] }).map (·.x 0x16))
      = some 0x23#8 := by decide

/-- R70: a block of two bytes at 0xFF runs past the address space, one of one byte does not. -/
theorem test_block_past_ff_is_refused : ¬ inSpace 0xFF#8 2 ∧ inSpace 0xFF#8 1 ∧ inSpace 0x00#8 256 := by decide

/-- R49: the core's reset keeps the Peripheral's registers, and INIT then finds them. -/
theorem test_core_reset_keeps_the_registers :
    let s := ({ device .handling [(0x1E, 0x02), (0x20, 0x77)] 0x38 with
      lock := .foreground, destroyed := true, shutdown := true }).resetCore
    (s.x 0x1E, s.x 0x20, s.pstate, s.destroyed) = (0x02#8, 0x77#8, PState.unarmed, false)
    ∧ ((after .init s).map (·.result)) = some (some (.ok (.bool true))) := by decide

theorem witness_GetTimeReadsOneBlock :
    frameByte 0x10#64 0 = 0x10 ∧ live.phase = .live ∧ live.lock = .free ∧ (live.choiceAt 0).outcome = .ok
    ∧ (({ live with choices := [failing []] }).choiceAt 0).outcome = .fails [] := by decide

theorem witness_SetTimeStoresTheTime :
    busy.phase = .live ∧ busy.lock = .free ∧ validSupplied ⟨59, 59, 23, 6, 31, 12, 255⟩ = true
    ∧ busy.allSucceed 5 ∧ live.allSucceed 5 ∧ live.undisturbed 5 := by
  unfold State.allSucceed State.undisturbed; decide

/-- The case of each clause: all succeed, and each of the three transactions fails. -/
theorem witness_SetTimeFirstErrorWins :
    live.phase = .live ∧ live.lock = .free ∧ validSupplied ⟨0, 0, 0, 0, 1, 1, 0⟩ = true ∧ live.allSucceed 2
    ∧ ({ live with choices := [calm, calm, failing [true], failing [], calm] }).allSucceed 2
    ∧ (({ live with choices := [calm, calm, failing [true], failing [], calm] }).choiceAt 2).outcome ≠ .ok
    ∧ (({ live with choices := [calm, calm, failing [true], failing [], calm] }).choiceAt 3).outcome = .fails []
    ∧ ({ live with choices := [calm, calm, calm, calm, failing [true]] }).allSucceed 2
    ∧ (({ live with choices := [calm, calm, calm, calm, failing [true]] }).choiceAt 3).outcome = .ok
    ∧ (({ live with choices := [calm, calm, calm, calm, failing [true]] }).choiceAt 4).outcome = .fails [true]
    ∧ (live.choiceAt 3).outcome = .ok ∧ (live.choiceAt 4).outcome = .ok
    ∧ isTimeRegister 0x0F = false ∧ isTimeRegister 0x17 = false := by
  unfold State.allSucceed; decide

/-- Program P6's shape: the block write fails, then STOP is cleared all the same, in Control and in the cache. -/
theorem test_setTime_block_write_fails :
    ((after (.setTime ⟨0, 0, 0, 0, 1, 1, 0⟩)
        { device .armed [(0x1F, 0x08)] 0x08 with choices := [calm, calm, failing [], calm, calm] }).map
      fun t => (t.result, t.x 0x1F, t.cache))
      = some (some (.error (.transportError ⟨0x10, 7, .write⟩)), 0x08, 0x08) := by decide

theorem witness_SetTimeFirstPairFailureStopsAtOnce :
    live.phase = .live ∧ live.lock = .free ∧ validSupplied ⟨0, 0, 0, 0, 1, 1, 0⟩ = true
    ∧ (({ live with choices := [failing []] }).choiceAt 0).outcome ≠ .ok
    ∧ (({ live with choices := [calm, failing [true]] }).choiceAt 0).outcome = .ok
    ∧ (({ live with choices := [calm, failing [true]] }).choiceAt 1).outcome ≠ .ok := by decide

theorem witness_SetTimeThenGetTimeReturnsIt :
    live.phase = .live ∧ live.lock = .free ∧ validSupplied ⟨59, 59, 23, 6, 29, 2, 124⟩ = true ∧ live.allSucceed 6
    ∧ (live.choiceAt 5).steps = [] := by
  unfold State.allSucceed; decide

theorem witness_InitLeavesTheDeviceReady :
    fresh.phase = .fresh ∧ fresh.lock = .free ∧ fresh.params.wf = true ∧ fresh.allSucceed 6 ∧ fresh.undisturbed 6
    ∧ fresh.x 0x1E &&& 0x3A = 0
    ∧ (device .unarmed [(0x1E, 0x3A)] 0).x 0x1E &&& 0x3A ≠ 0 := by
  unfold State.allSucceed State.undisturbed; decide

theorem witness_InitSucceedsOrLeavesTheDeviceFresh :
    fresh.phase = .fresh ∧ fresh.lock = .free
    ∧ ({ fresh with choices := [calm, calm, failing []] }).phase = .fresh := by decide

theorem witness_ShutdownDestroysTheDevice :
    frameByte 0x16#64 0 = 0x16 ∧ live.destroyed = false ∧ live.lock = .free ∧ (draining 0x08 []).pstate = .handling
    ∧ (draining 0x08 []).destroyed = false ∧ (draining 0x08 []).lock = .free := by decide

theorem witness_ShutdownIsOneWay :
    let s := { live with inputs := [.issue 0x16#64] }
    let d := { gone with inputs := [.turn .idle] }
    (∃ t, step s = .next t ∧ (t.shutdown ≠ s.shutdown ∨ t.destroyed ≠ s.destroyed))
    ∧ (∃ t, step d = .next t) ∧ d.shutdown = true ∧ d.destroyed = true :=
  ⟨⟨_, rfl, by decide⟩, ⟨_, rfl⟩, rfl, rfl⟩

theorem witness_DestroyedCoreTakesNoStep :
    gone.destroyed = true ∧ (∃ t, step { gone with inputs := [.turn (.env .pTimer)] } = .next t)
    ∧ ∃ t, step { gone with inputs := [.issue 0x0000000000005901#64] } = .next t :=
  ⟨rfl, ⟨_, rfl⟩, ⟨_, rfl⟩⟩

theorem witness_GetAlarmReportsTheAlarm :
    frameByte 0x12#64 0 = 0x12 ∧ busy.phase = .live ∧ busy.params.hasIrq = true ∧ busy.lock = .free
    ∧ (busy.choiceAt 0).outcome = .ok
    ∧ (({ live with choices := [failing []] }).choiceAt 0).outcome = .fails []
    ∧ (({ live with choices := [calm, failing []] }).choiceAt 1).outcome = .fails [] := by decide

theorem witness_SetAlarmProgramsTheAlarm :
    busy.phase = .live ∧ busy.params.hasIrq = true ∧ busy.lock = .free ∧ busy.cache.getLsbD 3 = true
    ∧ live.cache.getLsbD 3 = false ∧ (⟨59, 23, 31, true⟩ : AlarmSpec).minute ≤ 59
    ∧ (⟨59, 23, 31, true⟩ : AlarmSpec).hour ≤ 23 ∧ (⟨59, 23, 31, true⟩ : AlarmSpec).day ≤ 31
    ∧ busy.allSucceed 8 ∧ live.allSucceed 8 ∧ live.undisturbed 8 := by
  unfold State.allSucceed State.undisturbed; decide

theorem witness_SetAlarmIssuesItsSixSteps :
    live.phase = .live ∧ live.params.hasIrq = true ∧ live.lock = .free ∧ (⟨0, 0, 0, false⟩ : AlarmSpec).minute ≤ 59
    ∧ (⟨0, 0, 0, false⟩ : AlarmSpec).hour ≤ 23 ∧ (⟨0, 0, 0, false⟩ : AlarmSpec).day ≤ 31
    ∧ live.allSucceed 8 ∧ live.undisturbed 8 := by
  unfold State.allSucceed State.undisturbed; decide

theorem witness_AlarmEnableWritesControlOnChange :
    busy.phase = .live ∧ busy.params.hasIrq = true ∧ busy.lock = .free ∧ busy.allSucceed 3 ∧ live.undisturbed 3 := by
  unfold State.allSucceed State.undisturbed; decide

theorem witness_EnablingTwiceWritesControlOnce :
    live.phase = .live ∧ live.params.hasIrq = true ∧ live.lock = .free ∧ live.allSucceed 5
    ∧ live.cache.getLsbD 3 = false := by
  unfold State.allSucceed; decide

/-- SETALARM and ALARMEN without a failure, and with one. -/
theorem witness_AlarmOperationsStopAtTheFirstFailure :
    live.phase = .live ∧ live.params.hasIrq = true ∧ live.lock = .free ∧ validAlarm ⟨59, 23, 31, true⟩ = true
    ∧ ((after (.setAlarm ⟨59, 23, 31, true⟩) { live with choices := [calm, calm, failing [true]] }).map
        fun t => (t.trace.length, t.result)) = some (3, some (.error (.transportError (txWrite 0x1D 1))))
    ∧ ((after (.alarmEn true) { live with choices := [calm, failing []] }).map fun t => (t.trace.length, t.result))
      = some (2, some (.error (.transportError (txWrite 0x1E 1))))
    ∧ ((after (.alarmEn false) live).map fun t => (t.trace.length, t.result)) = some (2, some (.ok .none)) := by decide

theorem witness_InterruptEntryChangesOnlyTheSequencer :
    ({ busy with inputs := [.turn (.env .irq)] }).inputs = .turn (.env .irq) :: [] ∧ busy.pstate = .armed
    ∧ busy.destroyed = false ∧ (busy.x 0x1E).getLsbD 3 = true ∧ (busy.x 0x1F).getLsbD 3 = true :=
  ⟨rfl, by decide⟩

theorem witness_PassDrainsTheFlagRegister :
    (draining 0x38 [calm, calm]).inputs = .turn .drain :: [] ∧ (draining 0x38 [calm, calm]).pstate = .handling
    ∧ (draining 0x38 [calm, calm]).destroyed = false ∧ (draining 0x38 [calm, calm]).lock = .free
    ∧ ((draining 0x38 [failing []]).choiceAt 0).outcome = .fails []
    ∧ ((draining 0x38 [calm, failing [true]]).choiceAt 1).outcome = .fails [true] := by decide

theorem witness_PassRaisesOneEventPerFlag :
    let s := draining 0x38 [calm, calm]
    s.inputs = .turn .drain :: [] ∧ s.pstate = .handling ∧ s.destroyed = false ∧ s.lock = .free
    ∧ (s.envSteps (s.stepsBefore 1)).x 0x1E &&& 0x38 = 0x38 ∧ s.allSucceed 2
    ∧ ((draining 0x38 [failing []]).choiceAt 0).outcome ≠ .ok := by
  unfold State.allSucceed; decide

/-- A pass and an ALARMEN in whose window P-OSC sets VLF, P-TIMER TF, P-UPDATE UF, and (the alarm match holding, all
bytes being 0, in week-day mode) P-ALARM AF. -/
theorem witness_FlagSetInsideAReadModifyWriteIsLost :
    let window := [calm, ⟨[.pOsc none, .pTimer, .pUpdate, .pAlarm true], .ok, false⟩, calm, calm, calm, calm, calm, calm]
    let s := draining 0x00 window
    let l := { live with choices := window }
    ((s.inputs = .turn .drain :: []) ∧ s.pstate = .handling ∧ s.destroyed = false ∧ s.lock = .free ∧ s.allSucceed 2
      ∧ ∀ k ∈ [1, 3, 4, 5], ((s.envSteps (s.stepsBefore 1)).x 0x1E).getLsbD k = false
        ∧ ((s.envSteps (s.stepsBefore 2)).x 0x1E).getLsbD k = true)
    ∧ (l.phase = .live ∧ l.params.hasIrq = true ∧ l.lock = .free ∧ l.allSucceed 3 ∧ (l.choiceAt 2).steps = []
      ∧ ∀ k ∈ [1, 3, 4, 5], ((l.envSteps (l.stepsBefore 1)).x 0x1E).getLsbD k = false
        ∧ ((l.envSteps (l.stepsBefore 2)).x 0x1E).getLsbD k = true)
    ∧ l.allSucceed 8 ∧ validAlarm ⟨0, 0, 0, true⟩ = true
    ∧ (l.choiceAt (if l.cache.getLsbD 3 then 7 else 6)).steps = [] := by
  unfold State.allSucceed
  refine ⟨⟨rfl, by decide⟩, by decide, by decide, by decide, by decide⟩

/-- Each of R253's rows is taken by some step, and an IRQ step is taken inside an operation. -/
theorem witness_SequencerFollowsItsTransitions :
    ((stepped { fresh with inputs := [.issue 0x15#64] }).map (·.pstate)) = some .armed
    ∧ ((stepped { fresh with inputs := [.issue 0x15#64], params := { testParams with hasIrq := false } }).map (·.pstate))
      = some .disarmed
    ∧ ((stepped { fresh with inputs := [.issue 0x16#64] }).map (·.pstate)) = some .disarmed
    ∧ ((stepped { live with inputs := [.issue 0x16#64] }).map (·.pstate)) = some .disarmed
    ∧ ((stepped { busy with inputs := [.turn (.env .irq)] }).map (·.pstate)) = some .handling
    ∧ ((stepped { busy with inputs := [.issue 0x10#64] }).map (·.pstate)) = some .handling
    ∧ ((stepped (draining 0x08 [calm, calm])).map (·.pstate)) = some .armed
    ∧ ((stepped { draining 0x08 [calm, calm] with shutdown := true }).map (·.pstate)) = some .disarmed
    ∧ ((stepped { draining 0x08 [calm] with inputs := [.issue 0x16#64] }).map (·.pstate)) = some .disarmed := by decide

theorem witness_PeripheralSetsItsFlagsAndClearsNone :
    (EnvStep.pOsc (some someImage)) ≠ .irq ∧ (busy.x 0x1E).getLsbD 3 = true ∧ (live.x 0x1F).getLsbD 6 = false
    ∧ isTimeRegister 0x18 = false ∧ isTimeRegister 0x17 = false ∧ isTimeRegister 0x0F = false := by decide

theorem witness_ClockAdvancesOnlyWhileStopIsClear :
    ((device .armed [(0x1F, 0x40)] 0).x 0x1F).getLsbD 6 = true ∧ (live.x 0x1F).getLsbD 6 = false
    ∧ live.params.timeAdvance = .draw ∧ isTimeRegister 0x17 = false := by decide

theorem witness_CalendarSuccessorIsOneSecond :
    let s := { live with params := { testParams with timeAdvance := .calsucc } }
    (s.x 0x1F).getLsbD 6 = false ∧ s.params.timeAdvance = .calsucc
    ∧ decodeImage (Memory.timeImage s.regs) = none
    ∧ decodeImage (Memory.timeImage (Memory.setTimeImage s.regs someImage)) = some ⟨59, 59, 23, 6, 31, 12, 99⟩
    ∧ validTime ⟨59, 59, 23, 6, 31, 12, 99⟩ = true ∧ validTime ⟨59, 59, 23, 6, 28, 2, 23⟩ = true := by decide

theorem witness_AlarmFiresOnTheMatch :
    let s := device .armed [(0x18, 0x30), (0x19, 0x80), (0x1A, 0x80), (0x11, 0x30), (0x1D, 0x08)] 0
    ((s.x 0x18).getLsbD 7 = true ∨ s.x 0x18 &&& 0x7F = s.x 0x11 &&& 0x7F) ∧ (s.x 0x19).getLsbD 7 = true
    ∧ (s.x 0x1A).getLsbD 7 = true ∧ (s.x 0x1D).getLsbD 3 = true ∧ (live.x 0x1D).getLsbD 3 = false := by decide

theorem witness_StepKeepsTheInvariant :
    let s := { live with inputs := [.issue 0x0000000100071E13#64], clean := true, synced := true }
    s.Inv ∧ ∃ t, step s = .next t ∧ t.x 0x18 = 0x30 := by
  refine ⟨⟨by decide, by decide, by decide, by decide, by decide, by decide, by decide, ?_⟩, _, rfl, by decide⟩
  unfold State.cacheCoherent
  decide

theorem witness_ResetSatisfiesTheInvariant : Memory.wf live.regs = true ∧ live.params.wf = true := by decide

theorem witness_ResetLeavesTheCoreFresh : isLiveIo (.alarmEn true) = true := by decide

theorem witness_CacheFollowsControlWrites :
    Instr.alarmEn true ≠ .init ∧ ∃ t, exec (.alarmEn true) live = .next t ∧ t.cache = 0x08 :=
  ⟨by decide, _, rfl, by decide⟩

theorem witness_OnlyListedTransactionsAreIssued :
    ∃ t, exec .getAlarm live = .next t ∧ t.trace.length = 2 := ⟨_, rfl, by decide⟩

theorem witness_TransactionCounts :
    live.lock = .free ∧ live.allSucceed 8 ∧ live.phase = .live ∧ live.params.hasIrq = true ∧ fresh.phase = .fresh
    ∧ fresh.lock = .free ∧ fresh.allSucceed 8 ∧ live.pstate ≠ .handling
    ∧ validSupplied ⟨0, 0, 0, 0, 1, 1, 0⟩ = true ∧ validAlarm ⟨59, 23, 31, true⟩ = true
    ∧ isPure (.bcd2bin 0) = true ∧ (device .handling [] 0).pstate = .handling
    ∧ (device .handling [] 0).destroyed = false ∧ (device .handling [] 0).allSucceed 8 := by
  unfold State.allSucceed; decide

theorem witness_TransactionCounts_complete :
    (∃ t, exec .getTime live = .next t) ∧ (∃ t, exec (.setTime ⟨0, 0, 0, 0, 1, 1, 0⟩) live = .next t)
    ∧ (∃ t, exec .getAlarm live = .next t) ∧ (∃ t, exec (.setAlarm ⟨59, 23, 31, true⟩) live = .next t)
    ∧ (∃ t, exec (.alarmEn false) live = .next t) ∧ (∃ t, exec .init fresh = .next t)
    ∧ ∃ t, exec .shutdown live = .next t :=
  ⟨⟨_, rfl⟩, ⟨_, rfl⟩, ⟨_, rfl⟩, ⟨_, rfl⟩, ⟨_, rfl⟩, ⟨_, rfl⟩, ⟨_, rfl⟩⟩

theorem witness_OperationFrames :
    live.params.wf = true ∧ live.undisturbed 8 ∧ live.lock = .free
    ∧ storesIn live (.setAlarm ⟨0, 0, 0, false⟩) 0x1F = false ∧ storesIn live (.setAlarm ⟨0, 0, 0, true⟩) 0x1F = true
    ∧ mayAssignCache .getAlarm = false := by
  unfold State.undisturbed; decide

theorem witness_InterleavedOperationFrames :
    (∃ t, exec (.setAlarm ⟨0, 0, 0, true⟩) busy = .next t) ∧ mayStore busy.params (.setAlarm ⟨0, 0, 0, true⟩) 0x1B = false
    ∧ isTimeRegister 0x1B = false := ⟨⟨_, rfl⟩, by decide⟩

theorem witness_RegistersAreWhatTheTraceStores :
    live.undisturbed 8 ∧ ∃ t, exec (.setAlarm ⟨30, 7, 0, true⟩) live = .next t ∧ t.x 0x19 = 0x07 := by
  refine ⟨?_, _, rfl, by decide⟩
  unfold State.undisturbed; decide

theorem witness_OnlyInitClearsVlf :
    let s := { device .unarmed [(0x1E, 0x02)] 0 with inputs := [.issue 0x15#64] }
    ∃ t, step s = .next t ∧ (s.x 0x1E).getLsbD 1 = true ∧ (t.x 0x1E).getLsbD 1 = false :=
  ⟨_, rfl, by decide, by decide⟩

theorem witness_LogsOnlyGrow :
    ∃ t, step (draining 0x3A [calm, calm]) = .next t ∧ t.events.length = 4 ∧ t.trace.length = 2 :=
  ⟨_, rfl, by decide, by decide⟩

theorem witness_TransactionsReadAndStoreAscending :
    (live.choiceAt 0).outcome = .ok ∧ inSpace 0xFF#8 1 ∧ inSpace 0x10#8 (imageBytes someImage).length
    ∧ ((0x16#8).toNat < (0x17#8).toNat ∨ (0x17#8).toNat + 1 ≤ (0x16#8).toNat) := by decide

theorem witness_FailedTransactionsLeaveOldOrNew :
    (({ live with choices := [failing [true, false]] }).choiceAt 0).outcome = .fails [true, false]
    ∧ inSpace 0x18#8 3 ∧ inSpace 0x18#8 [0x30#8, 0x07#8].length := by decide

theorem witness_CanonicalRegisterSpacesAreEqual :
    let m := Memory.write (Memory.write [] 0xFF 0x80) 0x00 0x01
    let n := Memory.write (Memory.write [] 0x00 0x01) 0xFF 0x80
    Memory.wf m = true ∧ Memory.wf n = true ∧ ∀ a : Addr, Memory.get m a = Memory.get n a :=
  ⟨by decide, by decide, fun _ => rfl⟩

theorem test_non_canonical_forms :
    Memory.wf [(0x100, 0x01)] = false ∧ Memory.wf [(0x10, 0x00)] = false
    ∧ Memory.wf [(0x11, 0x01), (0x10, 0x01)] = false := by decide

end Sys2Proof.Tests
end

section
/-! PROOFS. What one transaction leaves, and how a transaction and the rest of a body compose: the rules that every
statement about all operations is proved with. -/

namespace Sys2Proof.Machine

/-! ## One transaction -/

/-- A successful block write is a write that stores every byte (20_memory.md R66, R69). -/
theorem Memory.writeBlock_eq_writeSome (vs : List Byte) (m : Memory) (a : Nat) :
    Memory.writeBlock m a vs = Memory.writeSome m a (List.replicate vs.length true) vs := by
  induction vs generalizing m a with
  | nil => rfl
  | cons v t ih => exact ih _ _

/-- A read lets the other agents step and is recorded, whatever its outcome. -/
theorem State.memRead_snd (s : State) (a : Addr) (n : Nat) (h : inSpace a n) :
    ∃ tx, (s.memRead a n h).2 = s.interleave.record tx := by
  rcases State.memRead_cases s a n h with e | e
  · exact ⟨_, by rw [e]⟩
  · exact ⟨_, by rw [e]⟩

/-- The bytes of a read that succeeds are those the registers hold at the transaction (R63, R64). -/
theorem State.memRead_some {s s' : State} {a : Addr} {n : Nat} {h : inSpace a n} {bs : List Byte}
    (e : s.memRead a n h = (some bs, s')) : bs = Memory.readBlock s.interleave.regs a.toNat n := by
  rcases State.memRead_cases s a n h with e' | e'
  · exact (by simpa using (e.symm.trans e') : bs = _ ∧ _).1
  · simp [e'] at e

/-- A write lets the other agents step, stores some of its bytes, and is recorded, whatever its outcome. -/
theorem State.memWrite_snd (s : State) (a : Addr) (vs : List Byte) (h : inSpace a vs.length) :
    ∃ ks tx, (s.memWrite a vs h).2
      = (s.interleave.setRegs (Memory.writeSome s.interleave.regs a.toNat ks vs)).record tx := by
  rcases State.memWrite_cases s a vs h with e | ⟨ks, e⟩
  · exact ⟨List.replicate vs.length true, _, by rw [e, Memory.writeBlock_eq_writeSome]⟩
  · exact ⟨ks, _, by rw [e]⟩

/-- After the transaction of a Control write the cache takes the byte, or R48's `clean` ends. -/
theorem State.writeControl_snd (s : State) (v : Byte) :
    (s.writeControl v).2 = ((s.memWrite regControl [v] (inSpace_byte _)).2.setCache v).setSynced true
      ∨ (s.writeControl v).2 = (s.memWrite regControl [v] (inSpace_byte _)).2.setClean false := by
  rcases State.writeControl_cases s v with ⟨s', e, e'⟩ | ⟨s', e, e'⟩
  · exact .inl (by rw [e, e'])
  · exact .inr (by rw [e, e'])

/-- After a Control write that succeeds, Control holds the byte and so does the cache (20_memory.md R82). -/
theorem State.writeControl_true {s s' : State} {v : Byte} (e : s.writeControl v = (true, s')) :
    s'.x regControl = v ∧ s'.cache = v := by
  rcases State.writeControl_cases s v with ⟨u, hw, e'⟩ | ⟨u, hw, e'⟩
  · obtain rfl : s' = (u.setCache v).setSynced true := by simpa using e.symm.trans e'
    rcases State.memWrite_cases s regControl [v] (inSpace_byte _) with hc | ⟨ks, hc⟩
    · obtain rfl := (Prod.mk.inj (hw.symm.trans hc)).2
      exact ⟨Memory.read_write_same _ _ _, rfl⟩
    · simp [hc] at hw
  · simp [e'] at e

/-- The transaction leaves the byte at `b` out: its block lies elsewhere. -/
def TxInfo.misses (x : TxInfo) (b : Addr) : Prop :=
  b.toNat < x.addr.toNat ∨ x.addr.toNat + x.len ≤ b.toNat

theorem TxInfo.misses_of_ne {a b : Addr} (d : Direction) (h : b ≠ a) : TxInfo.misses ⟨a, 1, d⟩ b := by
  have : b.toNat ≠ a.toNat := fun e => h (BitVec.eq_of_toNat_eq e)
  simp only [TxInfo.misses]
  omega

/-- A write changes no register outside its block but through the other agents (20_memory.md R69). -/
theorem State.memWrite_x_of_misses (s : State) (a : Addr) (vs : List Byte) (h : inSpace a vs.length) {b : Addr}
    (hb : TxInfo.misses ⟨a, vs.length, .write⟩ b) : (s.memWrite a vs h).2.x b = s.interleave.x b := by
  obtain ⟨ks, tx, e⟩ := State.memWrite_snd s a vs h
  rw [e]
  exact Memory.read_writeSome_other ks vs _ _ _ hb

/-- A one-byte write leaves its register as the other agents left it, or with the byte offered (R69). -/
theorem State.memWrite_x_same (s : State) (a : Addr) (v : Byte) :
    (s.memWrite a [v] (inSpace_byte _)).2.x a = v
      ∨ (s.memWrite a [v] (inSpace_byte _)).2.x a = s.interleave.x a := by
  obtain ⟨ks, tx, e⟩ := State.memWrite_snd s a [v] (inSpace_byte _)
  rw [e]
  have h := Memory.read_writeSome_inside ks [v] s.interleave.regs a.toNat 0 (by simp)
  rw [Nat.add_zero] at h
  split at h
  · exact .inl h
  · exact .inr h

theorem State.wf_interleave (s : State) (w : Memory.wf s.regs = true) : Memory.wf s.interleave.regs = true := by
  rw [State.interleave_eq_skip]
  exact State.wf_envSteps _ _ w

theorem State.wf_memWrite (s : State) (a : Addr) (vs : List Byte) (h : inSpace a vs.length)
    (w : Memory.wf s.regs = true) : Memory.wf (s.memWrite a vs h).2.regs = true := by
  obtain ⟨ks, tx, e⟩ := State.memWrite_snd s a vs h
  rw [e]
  exact Memory.wf_writeSome ks vs _ _ h (State.wf_interleave s w)

/-- A Control write stores what its transaction stores. -/
theorem State.writeControl_regs (s : State) (v : Byte) :
    (s.writeControl v).2.regs = (s.memWrite regControl [v] (inSpace_byte _)).2.regs := by
  rcases State.writeControl_snd s v with e | e <;> rw [e] <;> rfl

theorem State.writeControl_x (s : State) (v : Byte) (b : Addr) :
    (s.writeControl v).2.x b = (s.memWrite regControl [v] (inSpace_byte _)).2.x b :=
  congrArg (Memory.get · b) (State.writeControl_regs s v)

/-! ## A transaction and what follows it -/

section rules

variable {P Q : State → Prop} {s : State}

/-- What holds after a read, whatever its outcome, is what its continuation and its error start from. -/
theorem State.readThen_post {a : Addr} {n : Nat} {i : inSpace a n} {k : List Byte → State → State}
    (hr : P (s.memRead a n i).2) (hk : ∀ s', P s' → Q (k (Memory.readBlock s.interleave.regs a.toNat n) s'))
    (he : ∀ s' r, P s' → Q (s'.setResult r)) : Q (s.readThen a n i k) := by
  rcases State.readThen_cases s a n i k with ⟨bs, s', e, e'⟩ | ⟨s', e, e'⟩
  · rw [e', State.memRead_some e]
    exact hk s' (by rwa [e] at hr)
  · rw [e']
    exact he s' _ (by rwa [e] at hr)

theorem State.readByteThen_post {a : Addr} {k : Byte → State → State}
    (hr : P (s.memRead a 1 (inSpace_byte a)).2) (hk : ∀ s', P s' → Q (k (s.interleave.x a) s'))
    (he : ∀ s' r, P s' → Q (s'.setResult r)) : Q (s.readByteThen a k) :=
  State.readThen_post hr hk he

/-- What holds after a write, whatever its outcome, is what its continuation and its error start from. -/
theorem State.writeThen_post {a : Addr} {vs : List Byte} {i : inSpace a vs.length} {k : State → State}
    (hw : P (s.memWrite a vs i).2) (hk : ∀ s', P s' → Q (k s')) (he : ∀ s' r, P s' → Q (s'.setResult r)) :
    Q (s.writeThen a vs i k) := by
  rcases State.writeThen_cases s a vs i k with ⟨s', e, e'⟩ | ⟨s', e, e'⟩
  · rw [e']
    exact hk s' (by rwa [e] at hw)
  · rw [e']
    exact he s' _ (by rwa [e] at hw)

/-- A Control write's continuation may also use that Control and the cache hold the byte. -/
theorem State.writeControlThen_post {v : Byte} {k : State → State} (hw : P (s.writeControl v).2)
    (hk : ∀ s', P s' → s'.x regControl = v ∧ s'.cache = v → Q (k s'))
    (he : ∀ s' r, P s' → Q (s'.setResult r)) : Q (s.writeControlThen v k) := by
  rcases State.writeControlThen_cases s v k with ⟨s', e, e'⟩ | ⟨s', e, e'⟩
  · rw [e']
    exact hk s' (by rwa [e] at hw) (State.writeControl_true e)
  · rw [e']
    exact he s' _ (by rwa [e] at hw)

/-- SETTIME's second Control pair ends with its Control write, or with the read that failed (43_device.md R212). -/
theorem State.clearStop_post (hr : P (s.memRead regControl 1 (inSpace_byte _)).2)
    (hk : ∀ s' v, P s' → Q (s'.writeControl v).2) (he : ∀ s', P s' → Q s') : Q s.clearStop.2 := by
  unfold State.clearStop
  rcases e : s.memRead regControl 1 (inSpace_byte _) with ⟨_ | bs, s'⟩ <;> rw [e] at hr
  · exact he s' hr
  · have hw := hk s' (bclr (bs.getD 0 0) maskSTOP) hr
    dsimp only
    rcases e' : s'.writeControl (bclr (bs.getD 0 0) maskSTOP) with ⟨_ | _, s''⟩ <;> rwa [e'] at hw

/-- A pass reads Flag, emits, and writes Flag back; a failure adds its event (60_exceptions.md R255, R256). -/
theorem State.drainFlags_post (hr : P (s.memRead regFlag 1 (inSpace_byte _)).2)
    (hk : ∀ s' es, P s' →
      Q ((s'.emit es).memWrite regFlag [drainedFlag (s.interleave.x regFlag)] (inSpace_byte _)).2)
    (hp : ∀ s' es, P s' → Q (s'.emit es)) (hq : ∀ s' es, Q s' → Q (s'.emit es)) : Q s.drainFlags := by
  unfold State.drainFlags
  rcases e : s.memRead regFlag 1 (inSpace_byte _) with ⟨_ | bs, s'⟩ <;> rw [e] at hr
  · exact hp s' _ hr
  · have hb : bs.getD 0 0 = s.interleave.x regFlag := by rw [State.memRead_some e]; rfl
    have hw := hk s' (drainedEvents (s.interleave.x regFlag)) hr
    dsimp only
    rw [hb]
    rcases e' : (s'.emit (drainedEvents (s.interleave.x regFlag))).memWrite regFlag
        [drainedFlag (s.interleave.x regFlag)] (inSpace_byte _) with ⟨_ | _, s''⟩ <;> rw [e'] at hw
    · exact hq s'' _ hw
    · exact hw

end rules

/-- SETALARM from its step 2 on, the alarm interrupt being disabled (42_alarm.md R185). -/
def State.programAlarm (a : AlarmSpec) (s : State) : State :=
  s.writeThen regAlarmMin [bin2bcd a.minute, bin2bcd a.hour] alarmPair_inSpace fun s =>
  s.readByteThen regExtension fun e s =>
  s.writeByteThen regExtension (bput e maskWADA wadaMday) fun s =>
  s.writeByteThen regAlarmDay (alarmDayByte a.day) fun s =>
  s.clearAlarmFlagThen fun s => s.enableAlarm a.enabled

theorem State.setAlarmBody_eq (a : AlarmSpec) (s : State) :
    State.setAlarmBody a s = s.disableAlarmThen (State.programAlarm a) := rfl

/-! ## The stores of the listed transactions -/

theorem TxInfo.misses_timeBlock {b : Addr} (h : isTimeRegister b = false) : TxInfo.misses (txWrite 0x10#8 7) b := by
  have : ¬(16 ≤ b.toNat ∧ b.toNat ≤ 22) := fun c => by simp [(isTimeRegister_iff b).mpr c] at h
  simp only [TxInfo.misses, txWrite]
  bv_omega

theorem TxInfo.misses_alarmPair {b : Addr} (h18 : b ≠ 0x18#8) (h19 : b ≠ 0x19#8) :
    TxInfo.misses (txWrite 0x18#8 2) b := by
  simp only [TxInfo.misses, txWrite]
  bv_omega

/-- Every write that R62 lists for an operation misses the addresses the operation never stores to. -/
theorem listedTransactions_misses {p : Params} {i : Instr} {b : Addr} (h : mayStore p i b = false) :
    ∀ x ∈ listedTransactions p i, x.dir = .write → x.misses b := by
  have one {a : Addr} (hne : b ≠ a) : TxInfo.misses (txWrite a 1) b := TxInfo.misses_of_ne _ hne
  have read {a : Addr} {n : Nat} (hd : (txRead a n).dir = .write) : TxInfo.misses (txRead a n) b := by cases hd
  have none : ∀ x ∈ ([] : List TxInfo), x.dir = .write → x.misses b := List.forall_mem_nil _
  cases i with
  | bcd2bin _ | bin2bcd _ | decode _ | encode _ | btst _ _ | bset _ _ | bclr _ _ => exact none
  | getTime =>
    simp only [listedTransactions, List.forall_mem_cons]
    exact ⟨read, none⟩
  | getAlarm =>
    simp only [listedTransactions, List.forall_mem_cons]
    exact ⟨read, read, none⟩
  | setTime t =>
    simp only [mayStore, Bool.or_eq_false_iff, beq_eq_false_iff_ne] at h
    simp only [listedTransactions, List.forall_mem_cons]
    exact ⟨fun _ => TxInfo.misses_timeBlock h.1, read, fun _ => one h.2, none⟩
  | setAlarm a =>
    simp only [mayStore, Bool.or_eq_false_iff, beq_eq_false_iff_ne] at h
    obtain ⟨⟨⟨⟨⟨h18, h19⟩, h1A⟩, h1D⟩, h1E⟩, h1F⟩ := h
    simp only [listedTransactions, List.forall_mem_cons]
    exact ⟨fun _ => TxInfo.misses_alarmPair h18 h19, fun _ => one h1A, read, fun _ => one h1D, read,
      fun _ => one h1E, fun _ => one h1F, none⟩
  | alarmEn e =>
    simp only [mayStore, Bool.or_eq_false_iff, beq_eq_false_iff_ne] at h
    simp only [listedTransactions, List.forall_mem_cons]
    exact ⟨read, fun _ => one h.1, fun _ => one h.2, none⟩
  | init =>
    simp only [mayStore, Bool.or_eq_false_iff, beq_eq_false_iff_ne] at h
    obtain ⟨⟨⟨⟨h0, h1⟩, h1D⟩, h1E⟩, h1F⟩ := h
    simp only [listedTransactions, List.forall_mem_cons]
    exact ⟨read, fun _ => one h1D, fun _ => one h1E, fun _ => one h1F, fun _ => one h0, fun _ => one h1, none⟩
  | shutdown =>
    simp only [mayStore, beq_eq_false_iff_ne] at h
    simp only [listedTransactions, passTransactions, List.forall_mem_cons]
    exact ⟨read, fun _ => one h, none⟩

/-- R62 lists two block writes, at the time registers and at the alarm pair; every other write is one byte. -/
theorem listedTransactions_write (p : Params) (i : Instr) : ∀ x ∈ listedTransactions p i,
    x.dir = .read ∨ x = txWrite 0x10#8 7 ∨ x = txWrite 0x18#8 2 ∨ x = txWrite x.addr 1 := by
  cases i <;> simp [listedTransactions, passTransactions, txRead, txWrite]

/-- A listed write that does not start at Control leaves Control out. -/
theorem listedTransactions_misses_control {p : Params} {i : Instr} {x : TxInfo} (hx : x ∈ listedTransactions p i)
    (hd : x.dir = .write) (ha : x.addr ≠ regControl) : x.misses regControl := by
  rcases listedTransactions_write p i x hx with h | h | h | h
  · simp [hd] at h
  · rw [h]; exact .inr (by decide)
  · rw [h]; exact .inr (by decide)
  · rw [h]; exact TxInfo.misses_of_ne _ ha.symm

theorem passTransactions_misses_control (x : TxInfo) (hx : x ∈ passTransactions) :
    x.dir = .write → x.addr ≠ regControl → x.misses regControl :=
  listedTransactions_misses_control (p := default) (i := .shutdown) hx

end Sys2Proof.Machine
end

section
/-! PROOFS. What every run of transactions keeps, by induction on `Run`, and with it what every operation, turn and
step keeps: the logs, the parameters, `shutdown` and `destroyed`, the registers outside an operation's stores. -/

namespace Sys2Proof.Machine

/-! ## Fields no transaction touches -/

/-- The fields that only SHUTDOWN, the lock and the schedule change. -/
def State.shell (s : State) : Bool × Bool × Lock × Params × List Input :=
  (s.shutdown, s.destroyed, s.lock, s.params, s.inputs)

theorem State.shell_eq_iff {s t : State} : t.shell = s.shell ↔ t.shutdown = s.shutdown ∧ t.destroyed = s.destroyed
    ∧ t.lock = s.lock ∧ t.params = s.params ∧ t.inputs = s.inputs := by
  simp [State.shell]

theorem State.memRead_shell (s : State) (a : Addr) (n : Nat) (h : inSpace a n) :
    (s.memRead a n h).2.shell = s.shell := by
  obtain ⟨tx, e⟩ := State.memRead_snd s a n h
  simp [e, State.shell]

theorem State.memWrite_shell (s : State) (a : Addr) (vs : List Byte) (h : inSpace a vs.length) :
    (s.memWrite a vs h).2.shell = s.shell := by
  obtain ⟨ks, tx, e⟩ := State.memWrite_snd s a vs h
  simp [e, State.shell]

theorem State.writeControl_shell (s : State) (v : Byte) : (s.writeControl v).2.shell = s.shell := by
  refine .trans ?_ (State.memWrite_shell s regControl [v] (inSpace_byte _))
  rcases State.writeControl_snd s v with e | e <;> rw [e] <;> rfl

/-- The cache and R48's two conditions. -/
def State.cacheView (s : State) : Byte × Bool × Bool := (s.cache, s.clean, s.synced)

theorem State.memRead_cacheView (s : State) (a : Addr) (n : Nat) (h : inSpace a n) :
    (s.memRead a n h).2.cacheView = s.cacheView := by
  obtain ⟨tx, e⟩ := State.memRead_snd s a n h
  simp [e, State.cacheView]

theorem State.memWrite_cacheView (s : State) (a : Addr) (vs : List Byte) (h : inSpace a vs.length) :
    (s.memWrite a vs h).2.cacheView = s.cacheView := by
  obtain ⟨ks, tx, e⟩ := State.memWrite_snd s a vs h
  simp [e, State.cacheView]

/-- `t` comes after `s` in the life of one device: the parameters are the same, the logs have grown (R7, R45, R85). -/
structure State.Extends (s t : State) : Prop where
  params : t.params = s.params
  events : s.events <+: t.events
  trace : s.trace <+: t.trace

/-- Nothing was logged. -/
theorem State.Extends.of_eq {s t : State} (hp : t.params = s.params) (he : t.events = s.events)
    (ht : t.trace = s.trace) : s.Extends t :=
  ⟨hp, he ▸ List.prefix_rfl, ht ▸ List.prefix_rfl⟩

theorem State.Extends.trans {s t u : State} (h : s.Extends t) (k : t.Extends u) : s.Extends u :=
  ⟨k.params.trans h.params, h.events.trans k.events, h.trace.trans k.trace⟩

theorem State.extends_memRead (s : State) (a : Addr) (n : Nat) (h : inSpace a n) :
    s.Extends (s.memRead a n h).2 := by
  obtain ⟨tx, e⟩ := State.memRead_snd s a n h
  rw [e]
  exact ⟨by simp, by simp, by simp⟩

theorem State.extends_memWrite (s : State) (a : Addr) (vs : List Byte) (h : inSpace a vs.length) :
    s.Extends (s.memWrite a vs h).2 := by
  obtain ⟨ks, tx, e⟩ := State.memWrite_snd s a vs h
  rw [e]
  exact ⟨by simp, by simp, by simp⟩

theorem State.extends_writeControl (s : State) (v : Byte) : s.Extends (s.writeControl v).2 := by
  refine (State.extends_memWrite s regControl [v] (inSpace_byte _)).trans ?_
  rcases State.writeControl_snd s v with e | e <;> rw [e] <;> exact .of_eq rfl rfl rfl

/-- Outside the other agents' reach a read changes no register. -/
theorem State.memRead_x (s : State) (a : Addr) (n : Nat) (h : inSpace a n) {b : Addr} (ht : isTimeRegister b = false)
    (hf : b ≠ regFlag) : (s.memRead a n h).2.x b = s.x b := by
  obtain ⟨tx, e⟩ := State.memRead_snd s a n h
  rw [e, State.record_x, State.interleave_x s b ht hf]

/-! ## Runs -/

section runs

variable {ok : TxInfo → Prop} {init sep : Bool} {s t : State}

theorem Run.shell_eq (h : Run ok init sep s t) : t.shell = s.shell := by
  induction h with
  | done => rfl
  | read s t a n i _ _ ih => exact ih.trans (State.memRead_shell s a n i)
  | write s t a vs i _ _ _ ih => exact ih.trans (State.memWrite_shell s a vs i)
  | control s t v _ _ ih => exact ih.trans (State.writeControl_shell s v)
  | emit _ _ _ _ ih | result _ _ _ _ ih | load _ _ _ _ _ ih | finish _ _ _ _ _ _ ih => exact ih

theorem Run.extends (h : Run ok init sep s t) : s.Extends t := by
  induction h with
  | done => exact .of_eq rfl rfl rfl
  | read s t a n i _ _ ih => exact (State.extends_memRead s a n i).trans ih
  | write s t a vs i _ _ _ ih => exact (State.extends_memWrite s a vs i).trans ih
  | control s t v _ _ ih => exact (State.extends_writeControl s v).trans ih
  | emit s t es _ ih =>
    refine .trans ?_ ih
    exact ⟨rfl, List.prefix_append _ _, List.prefix_rfl⟩
  | result _ _ _ _ ih | load _ _ _ _ _ ih | finish _ _ _ _ _ _ ih =>
    refine .trans ?_ ih
    exact .of_eq rfl rfl rfl

/-- A register that no allowed write covers and no other agent reaches stays (R51, R278). -/
theorem Run.x_of_misses (h : Run ok init sep s t) {b : Addr} (hb : ∀ x, ok x → x.dir = .write → x.misses b)
    (ht : isTimeRegister b = false) (hf : b ≠ regFlag) : t.x b = s.x b := by
  induction h with
  | done => rfl
  | read s t a n i _ _ ih => exact ih.trans (State.memRead_x s a n i ht hf)
  | write s t a vs i _ ha _ ih =>
    rw [ih, State.memWrite_x_of_misses s a vs i (hb _ ha rfl), State.interleave_x s b ht hf]
  | control s t v ha _ ih =>
    rw [ih, State.writeControl_x, State.memWrite_x_of_misses s regControl [v] _ (hb _ ha rfl),
      State.interleave_x s b ht hf]
  | emit _ _ _ _ ih | result _ _ _ _ ih | load _ _ _ _ _ ih | finish _ _ _ _ _ _ ih => exact ih

/-- Without Control writes and outside INIT the cache and R48's conditions stay (R38, R48). -/
theorem Run.cacheView_eq (h : Run ok false sep s t) (hc : ¬ok (txWrite regControl 1)) :
    t.cacheView = s.cacheView := by
  generalize hi : false = init at h
  induction h with
  | done => rfl
  | read s t a n i _ _ ih => exact ih.trans (State.memRead_cacheView s a n i)
  | write s t a vs i _ _ _ ih => exact ih.trans (State.memWrite_cacheView s a vs i)
  | control s t v ha _ _ => exact absurd ha hc
  | emit _ _ _ _ ih | result _ _ _ _ ih => exact ih
  | load _ _ _ h | finish _ _ _ _ h => cases hi.trans h

end runs

/-! ## Operations, turns and steps -/

/-- SHUTDOWN runs nothing but a pass's transactions, then leaves the line masked, the lock free and the device destroyed
(43_device.md R214). -/
theorem State.teardown_run (s : State) : ∃ n l u,
    Run (· ∈ passTransactions) false true ((s.setShutdown.skipChoices n).setLock l) u
      ∧ s.teardown = (((u.setPState .disarmed).setLock .free).setDestroyed).succeed .none := by
  rcases State.teardown_cases s with ⟨-, e⟩ | ⟨-, -, e⟩ | ⟨-, -, e⟩
  · exact ⟨0, s.lock, _, .done _, by rw [e, State.skip_zero]; rfl⟩
  · exact ⟨1, .free, _, .done _, by rw [e, State.advanceChoice_eq_skip]; rfl⟩
  · obtain ⟨u, hu, hp⟩ := State.drainPass_run ((s.setShutdown.setLock .free).advanceChoice) true
    rw [State.advanceChoice_eq_skip] at hu hp
    have hs : u.shutdown = true := (State.shell_eq_iff.mp hu.shell_eq).1
    exact ⟨1, .deferred, u, hu, by rw [e, State.advanceChoice_eq_skip, hp, State.rearm, hs]; rfl⟩

/-- A pass is a run of Flag transactions that ends with the re-arm; DRAIN is a pass, or only the schedule changes
(60_exceptions.md R255). -/
theorem State.drain_run (s : State) : (∃ l, s.drain = s.setInputs l)
    ∨ s.pstate = .handling ∧ s.destroyed = false ∧ ∃ u, Run (· ∈ passTransactions) false true (s.setLock .deferred) u
      ∧ s.drain = u.rearm.setLock .free := by
  rcases State.drain_cases s with ⟨-, e⟩ | ⟨-, -, -, e⟩ | ⟨hp, hd, -, e⟩
  · exact .inl ⟨s.inputs, e⟩
  · exact .inl ⟨_, e⟩
  · obtain ⟨u, hu, hu'⟩ := State.drainPass_run s true
    exact .inr ⟨hp, hd, u, hu, e.trans hu'⟩

/-- What a step can do: an operation runs, an unknown frame is rejected, or another agent takes its turn. -/
theorem step_ways {s t : State} (h : step s = .next t) : ∃ l n,
    (∃ i, s.nextOperation = some i ∧ exec i { s with inputs := l, drawCount := n } = .next t)
      ∨ (s.destroyed = false ∧ ∃ r, t = State.setResult { s with inputs := l, drawCount := n } r)
      ∨ ∃ u, t = State.takeTurn { s with inputs := l, drawCount := n } u := by
  rcases step_cases h with ⟨f, rest, i, hi, hf, he⟩ | ⟨f, rest, e, -, -, hd, ht⟩ | ⟨rest, i, hi, he⟩ | ⟨u, -, ht⟩
  · exact ⟨rest, s.drawCount, .inl ⟨i, State.nextOperation_issue hi hf, he⟩⟩
  · exact ⟨rest, s.drawCount, .inr (.inl ⟨hd, _, ht⟩)⟩
  · exact ⟨rest, s.drawCount, .inl ⟨i, State.nextOperation_call hi, he⟩⟩
  · exact ⟨_, _, .inr (.inr ⟨u, by rw [ht, State.advanceInput_eq]⟩)⟩

/-! ## The logs and the parameters -/

theorem State.extends_teardown (s : State) : s.Extends s.teardown := by
  obtain ⟨n, l, u, hu, e⟩ := State.teardown_run s
  obtain ⟨hp, he, ht⟩ := hu.extends
  rw [e]
  exact ⟨hp, he, ht⟩

theorem exec_extends {i : Instr} {s t : State} (h : exec i s = .next t) : s.Extends t := by
  rcases exec_cases h with ⟨r, rfl⟩ | ⟨-, rfl⟩ | ⟨-, -, u, rfl, hu⟩ | ⟨-, -, -, rfl⟩
  · exact .of_eq rfl rfl rfl
  · exact .of_eq rfl rfl rfl
  · obtain ⟨hp, he, ht⟩ := (hu false (by simp)).extends
    exact ⟨hp, he, ht⟩
  · exact State.extends_teardown s

theorem State.extends_takeTurn (s : State) (u : Turn) : s.Extends (s.takeTurn u) := by
  cases u with
  | idle => exact .of_eq rfl rfl rfl
  | env e => exact .of_eq (State.envSteps_params s [e]) (State.envSteps_events s [e]) (State.envSteps_trace s [e])
  | drain =>
    rcases State.drain_run s with ⟨l, e⟩ | ⟨-, -, u, hu, e⟩
    · rw [State.takeTurn, e]; exact .of_eq rfl rfl rfl
    · obtain ⟨hp, he, ht⟩ := hu.extends
      rw [State.takeTurn, e]
      exact ⟨hp, he, ht⟩

/-- Settles O57: each of a step's three ways extends the logs. -/
theorem logsOnlyGrow : Obligations.LogsOnlyGrow := by
  intro s t h
  have key : s.Extends t := by
    obtain ⟨l, n, ⟨i, -, he⟩ | ⟨-, r, rfl⟩ | ⟨u, rfl⟩⟩ := step_ways h
    · refine .trans ?_ (exec_extends he)
      exact .of_eq rfl rfl rfl
    · exact .of_eq rfl rfl rfl
    · refine .trans ?_ (State.extends_takeTurn _ u)
      exact .of_eq rfl rfl rfl
  obtain ⟨hp, ⟨es, he⟩, ⟨ts, ht⟩⟩ := key
  exact ⟨hp, ⟨es, he.symm⟩, ts, ht.symm⟩

/-! ## The end of the device's life -/

theorem State.teardown_ends (s : State) : s.teardown.shutdown = true ∧ s.teardown.destroyed = true := by
  obtain ⟨n, l, u, hu, e⟩ := State.teardown_run s
  rw [e]
  exact ⟨(State.shell_eq_iff.mp hu.shell_eq).1, rfl⟩

/-- An operation leaves `shutdown` and `destroyed` alone, or it is SHUTDOWN and sets both (R39, R43). -/
theorem exec_shutdown_destroyed {i : Instr} {s t : State} (h : exec i s = .next t) :
    (t.shutdown = s.shutdown ∧ t.destroyed = s.destroyed)
      ∨ i = .shutdown ∧ t.shutdown = true ∧ t.destroyed = true := by
  rcases exec_cases h with ⟨r, rfl⟩ | ⟨-, rfl⟩ | ⟨-, -, u, rfl, hu⟩ | ⟨-, hi, -, rfl⟩
  · exact .inl ⟨rfl, rfl⟩
  · exact .inl ⟨rfl, rfl⟩
  · obtain ⟨hs, hd, -⟩ := State.shell_eq_iff.mp (hu false (by simp)).shell_eq
    exact .inl ⟨hs, hd⟩
  · exact .inr ⟨hi, State.teardown_ends s⟩

theorem State.takeTurn_shutdown_destroyed (s : State) (u : Turn) :
    (s.takeTurn u).shutdown = s.shutdown ∧ (s.takeTurn u).destroyed = s.destroyed := by
  cases u with
  | idle => exact ⟨rfl, rfl⟩
  | env e => exact ⟨State.envSteps_shutdown s [e], State.envSteps_destroyed s [e]⟩
  | drain =>
    rcases State.drain_run s with ⟨l, e⟩ | ⟨-, -, u, hu, e⟩
    · rw [State.takeTurn, e]; exact ⟨rfl, rfl⟩
    · obtain ⟨hs, hd, -⟩ := State.shell_eq_iff.mp hu.shell_eq
      rw [State.takeTurn, e]
      exact ⟨hs, hd⟩

/-- Settles O30: a step leaves both flags alone, or it is SHUTDOWN's and sets both. -/
theorem shutdownIsOneWay : Obligations.ShutdownIsOneWay := by
  intro s t h
  have key : (t.shutdown = s.shutdown ∧ t.destroyed = s.destroyed)
      ∨ s.nextOperation = some .shutdown ∧ t.shutdown = true ∧ t.destroyed = true := by
    obtain ⟨l, n, ⟨i, hi, he⟩ | ⟨-, r, rfl⟩ | ⟨u, rfl⟩⟩ := step_ways h
    · rcases exec_shutdown_destroyed he with hsd | ⟨rfl, hsd⟩
      · exact .inl hsd
      · exact .inr ⟨hi, hsd⟩
    · exact .inl ⟨rfl, rfl⟩
    · exact .inl (State.takeTurn_shutdown_destroyed _ u)
  rcases key with ⟨hs, hd⟩ | ⟨hn, hs, hd⟩
  · exact ⟨fun c => hs.trans c, fun c => hd.trans c, fun c => c.elim (absurd hs) (absurd hd)⟩
  · exact ⟨fun _ => hs, fun _ => hd, fun _ => hn⟩

/-- On a destroyed device only the pure operations have a meaning, and they return a result (43_device.md R210). -/
theorem exec_destroyed {i : Instr} {s t : State} (hd : s.destroyed = true) (h : exec i s = .next t) :
    ∃ r, t = s.setResult r := by
  have hp : s.phase = .destroyed := by simp [State.phase, hd]
  cases i with
  | bcd2bin _ | bin2bcd _ | decode _ | encode _ | btst _ _ | bset _ _ | bclr _ _ => cases h; exact ⟨_, rfl⟩
  | getTime | setTime _ | getAlarm | setAlarm _ | alarmEn _ =>
    have := (State.whenLive_next h).1
    simp [hp] at this
  | init =>
    have := (State.whenFresh_next h).1
    simp [hp] at this
  | shutdown => exact absurd hp (State.whenNotDestroyed_next h).1

theorem State.drain_destroyed {s : State} (hd : s.destroyed = true) : s.drain = s := by
  simp [State.drain, hd]

theorem State.envStep_pstate_destroyed {s : State} (hd : s.destroyed = true) (e : EnvStep) :
    (s.envStep e).pstate = s.pstate := by
  cases e with
  | irq => simp [State.envStep, State.takeInterrupt, State.irqEnabled, hd]
  | _ => rfl

/-- Settles O31: of the three ways of a step, the Foreground's leaves a result and another agent's is a Peripheral
step. -/
theorem destroyedCoreTakesNoStep : Obligations.DestroyedCoreTakesNoStep := by
  intro s t hd h
  obtain ⟨l, n, ⟨i, -, he⟩ | ⟨hd', -⟩ | ⟨u, rfl⟩⟩ := step_ways h
  · obtain ⟨r, rfl⟩ := exec_destroyed (by exact hd) he
    exact ⟨rfl, rfl, rfl, rfl, rfl, rfl, rfl, rfl, rfl, .inl rfl⟩
  · simp [hd] at hd'
  · cases u with
    | idle => exact ⟨rfl, rfl, rfl, rfl, rfl, rfl, rfl, rfl, rfl, .inl rfl⟩
    | drain =>
      rw [State.takeTurn, State.drain_destroyed (by exact hd)]
      exact ⟨rfl, rfl, rfl, rfl, rfl, rfl, rfl, rfl, rfl, .inl rfl⟩
    | env e =>
      have hr := (State.envSteps_congr [e] { s with inputs := l, drawCount := n } s rfl rfl rfl rfl).1
      exact ⟨State.envSteps_cache _ [e], State.envStep_pstate_destroyed (by exact hd) e, State.envSteps_lock _ [e],
        State.envSteps_shutdown _ [e], State.envSteps_events _ [e], State.envSteps_trace _ [e],
        State.envSteps_params _ [e], State.envSteps_clean _ [e], State.envSteps_synced _ [e],
        .inr ⟨⟨e, hr⟩, State.envSteps_result _ [e]⟩⟩

/-! ## Registers, whatever the other agents do -/

/-- Settles O54: the stores of an operation are those of its listed transactions (R62). -/
theorem interleavedOperationFrames : Obligations.InterleavedOperationFrames := by
  intro i s t h
  obtain ⟨hp, ⟨es, he⟩, ⟨ts, ht⟩⟩ := exec_extends h
  refine ⟨fun a hm hta hfa => ?_, hp, ⟨es, he.symm⟩, ts, ht.symm⟩
  have hw := listedTransactions_misses hm
  rcases exec_cases h with ⟨r, rfl⟩ | ⟨-, rfl⟩ | ⟨-, -, u, rfl, hu⟩ | ⟨-, rfl, -, rfl⟩
  · rfl
  · rfl
  · exact (hu false (by simp)).x_of_misses hw hta hfa
  · obtain ⟨n, l, u, hu, e⟩ := State.teardown_run s
    rw [e]
    exact hu.x_of_misses hw hta hfa

end Sys2Proof.Machine
end

section
/-! PROOFS. The machine's invariant: what other agents and plain transactions do to the fields it speaks of, that every
run of transactions keeps it, that INIT establishes its part on the cache, and that every step keeps it. -/

namespace Sys2Proof.Machine

/-! ## The invariant's part that holds inside an operation too -/

/-- `State.Inv` without the lock, the parameters and SHUTDOWN's two flags, which no transaction touches. -/
structure State.RunInv (s : State) : Prop where
  canonical : Memory.wf s.regs = true
  destroyedDisarmed : s.destroyed = true → s.pstate = .disarmed
  armedHasLine : s.pstate = .armed ∨ s.pstate = .handling → s.params.hasIrq = true
  cleanInitialised : s.clean = true → s.pstate ≠ .unarmed
  coherent : s.cacheCoherent

theorem State.inv_iff_runInv (s : State) :
    s.Inv ↔ s.RunInv ∧ s.params.wf = true ∧ s.lock = .free ∧ s.shutdown = s.destroyed := by
  constructor
  · rintro ⟨hr, hp, hl, hd, hs, ha, hc, hk⟩
    exact ⟨⟨hr, hd, ha, hc, hk⟩, hp, hl, hs⟩
  · rintro ⟨⟨hr, hd, ha, hc, hk⟩, hp, hl, hs⟩
    exact ⟨hr, hp, hl, hd, hs, ha, hc, hk⟩

/-- What may happen to the invariant's fields with no Control write: registers other than Control may change, and an
armed pipeline may take the interrupt. -/
structure State.Drifts (s t : State) : Prop where
  canonical : Memory.wf s.regs = true → Memory.wf t.regs = true
  control : t.x regControl = s.x regControl
  pstate : t.pstate = s.pstate ∨ s.pstate = .armed ∧ t.pstate = .handling
  cacheView : t.cacheView = s.cacheView
  params : t.params = s.params
  destroyed : t.destroyed = s.destroyed

/-- The invariant's fields are the same. -/
theorem State.Drifts.of_eq {s t : State} (hr : t.regs = s.regs) (hp : t.pstate = s.pstate)
    (hc : t.cacheView = s.cacheView) (hq : t.params = s.params) (hd : t.destroyed = s.destroyed) : s.Drifts t :=
  ⟨fun w => by rwa [hr], by rw [State.x, State.x, hr], .inl hp, hc, hq, hd⟩

theorem State.drifts_interleave (s : State) : s.Drifts s.interleave where
  canonical := State.wf_interleave s
  control := State.interleave_x s regControl (by decide) (by decide)
  pstate := State.interleave_pstate s
  cacheView := by simp [State.cacheView]
  params := State.interleave_params s
  destroyed := State.interleave_destroyed s

theorem State.drifts_memRead (s : State) (a : Addr) (n : Nat) (h : inSpace a n) : s.Drifts (s.memRead a n h).2 := by
  obtain ⟨tx, e⟩ := State.memRead_snd s a n h
  obtain ⟨hr, hx, hp, hc, hq, hd⟩ := State.drifts_interleave s
  rw [e]
  exact ⟨hr, hx, hp, hc, hq, hd⟩

theorem State.drifts_memWrite (s : State) (a : Addr) (vs : List Byte) (h : inSpace a vs.length)
    (hm : TxInfo.misses ⟨a, vs.length, .write⟩ regControl) : s.Drifts (s.memWrite a vs h).2 := by
  have hw := State.wf_memWrite s a vs h
  have hx' := State.memWrite_x_of_misses s a vs h hm
  obtain ⟨ks, tx, e⟩ := State.memWrite_snd s a vs h
  obtain ⟨-, hx, hp, hc, hq, hd⟩ := State.drifts_interleave s
  rw [e] at hw hx' ⊢
  exact ⟨hw, hx'.trans hx, hp, hc, hq, hd⟩

theorem State.drifts_envStep (s : State) (e : EnvStep) : s.Drifts (s.envStep e) where
  canonical := State.wf_envStep s e
  control := State.envStep_x s e regControl (by decide) (by decide)
  pstate := State.envStep_pstate s e
  cacheView := by rw [State.envStep_eq]; rfl
  params := State.envSteps_params s [e]
  destroyed := State.envSteps_destroyed s [e]

theorem State.RunInv.drift {s t : State} (h : s.RunInv) (d : s.Drifts t) : t.RunInv := by
  obtain ⟨hcache, hclean, hsynced⟩ : t.cache = s.cache ∧ t.clean = s.clean ∧ t.synced = s.synced := by
    simpa [State.cacheView] using d.cacheView
  refine ⟨d.canonical h.canonical, fun hd => ?_, fun ha => ?_, fun hc => ?_, fun hc => ?_⟩
  · have hs := h.destroyedDisarmed (d.destroyed ▸ hd)
    rcases d.pstate with e | ⟨e, -⟩
    · rw [e, hs]
    · simp [hs] at e
  · rw [d.params]
    rcases d.pstate with e | ⟨e, -⟩
    · exact h.armedHasLine (e ▸ ha)
    · exact h.armedHasLine (.inl e)
  · rcases d.pstate with e | ⟨-, e⟩
    · exact e ▸ h.cleanInitialised (hclean ▸ hc)
    · simp [e]
  · have := h.coherent (hclean ▸ hc)
    rw [hcache, hsynced]
    exact this.trans (by rw [show t.x 0x1F#8 = s.x 0x1F#8 from d.control])

/-- A Control write that succeeds gives the cache Control's byte; one that fails ends `clean` (R48). -/
theorem State.RunInv.writeControl {s : State} (h : s.RunInv) (v : Byte) : (s.writeControl v).2.RunInv := by
  obtain ⟨hr, hd, ha, hc, -⟩ := h.drift (State.drifts_interleave s)
  have hw := State.wf_memWrite s regControl [v] (inSpace_byte _) h.canonical
  rw [← State.writeControl_regs] at hw
  rcases State.memWrite_cases s regControl [v] (inSpace_byte _) with e | ⟨ks, e⟩
  · have hx : Memory.get (Memory.writeBlock s.interleave.regs regControl.toNat [v]) regControl = v :=
      Memory.read_write_same _ _ _
    simp only [State.writeControl, e] at hw ⊢
    exact ⟨hw, hd, ha, hc, fun _ => hx.symm⟩
  · simp only [State.writeControl, e] at hw ⊢
    exact ⟨hw, hd, ha, by simp, by simp [State.cacheCoherent]⟩

/-- Every run outside INIT keeps the invariant, if its plain writes leave Control out. -/
theorem Run.runInv {ok : TxInfo → Prop} {s t : State} (h : Run ok false true s t)
    (hm : ∀ x, ok x → x.dir = .write → x.addr ≠ regControl → x.misses regControl) (hs : s.RunInv) : t.RunInv := by
  generalize hi : false = init at h
  generalize hp : true = sep at h
  induction h with
  | done => exact hs
  | read s t a n i _ _ ih => exact ih (hs.drift (State.drifts_memRead s a n i))
  | write s t a vs i hc ha _ ih => exact ih (hs.drift (State.drifts_memWrite s a vs i (hm _ ha rfl (hc hp.symm))))
  | control s t v _ _ ih => exact ih (hs.writeControl v)
  | emit s t es _ ih => exact ih (hs.drift (.of_eq rfl rfl rfl rfl rfl))
  | result s t r _ ih => exact ih (hs.drift (.of_eq rfl rfl rfl rfl rfl))
  | load _ _ _ h | finish _ _ _ _ h => cases hi.trans h

/-! ## INIT -/

/-- The device while INIT runs: not armed yet, and `clean` has not begun (43_device.md R213, 10_state.md R48). -/
structure State.Starting (s : State) : Prop where
  canonical : Memory.wf s.regs = true
  unarmed : s.pstate = .unarmed
  unclean : s.clean = false
  alive : s.destroyed = false

theorem State.Starting.drift {s t : State} (h : s.Starting) (d : s.Drifts t) : t.Starting := by
  obtain ⟨-, hclean, -⟩ : t.cache = s.cache ∧ t.clean = s.clean ∧ t.synced = s.synced := by
    simpa [State.cacheView] using d.cacheView
  refine ⟨d.canonical h.canonical, ?_, hclean.trans h.unclean, d.destroyed.trans h.alive⟩
  rcases d.pstate with e | ⟨e, -⟩
  · exact e.trans h.unarmed
  · simp [h.unarmed] at e

theorem State.Starting.setResult {s : State} (h : s.Starting) (r : Result) : (s.setResult r).Starting :=
  h.drift (.of_eq rfl rfl rfl rfl rfl)

/-- An INIT that fails leaves a state that meets the invariant. -/
theorem State.Starting.runInv {s : State} (h : s.Starting) : s.RunInv where
  canonical := h.canonical
  destroyedDisarmed := by simp [h.alive]
  armedHasLine := by simp [h.unarmed]
  cleanInitialised := by simp [h.unclean]
  coherent := by simp [State.cacheCoherent, h.unclean]

/-- A write keeps it wherever it goes, the reserved addresses included. -/
theorem State.Starting.memWrite {s : State} (h : s.Starting) (a : Addr) (vs : List Byte) (i : inSpace a vs.length) :
    (s.memWrite a vs i).2.Starting := by
  have hw := State.wf_memWrite s a vs i h.canonical
  obtain ⟨-, hp, hc, hd⟩ := h.drift (State.drifts_interleave s)
  obtain ⟨ks, tx, e⟩ := State.memWrite_snd s a vs i
  rw [e] at hw ⊢
  exact ⟨hw, hp, hc, hd⟩

theorem State.Starting.writeControl {s : State} (h : s.Starting) (v : Byte) : (s.writeControl v).2.Starting := by
  obtain ⟨hr, hp, hc, hd⟩ := h.memWrite regControl [v] (inSpace_byte _)
  rcases State.writeControl_snd s v with e | e
  · rw [e]; exact ⟨hr, hp, hc, hd⟩
  · rw [e]; exact ⟨hr, hp, rfl, hd⟩

/-- INIT's end starts R48's conditions with the cache as R48 has it. -/
theorem State.Starting.finishInit {s : State} (h : s.Starting) {zeroed : Bool} (needsReset : Bool)
    (hk : s.cache = if zeroed then s.x regControl else s.x regControl &&& 0x7C#8) :
    (s.finishInit zeroed needsReset).RunInv where
  canonical := h.canonical
  destroyedDisarmed hd := by simp [State.finishInit, State.succeed, h.alive] at hd
  armedHasLine := by cases hi : s.params.hasIrq <;> simp [State.finishInit, State.succeed, hi]
  cleanInitialised _ := by cases hi : s.params.hasIrq <;> simp [State.finishInit, State.succeed, hi]
  coherent _ := hk

/-- The inspection of Flag zeroes Control with the cache, or leaves the value INIT has cached (R213). -/
theorem State.Starting.inspectFlag {s : State} (h : s.Starting) (hk : s.cache = s.x regControl &&& 0x7C#8)
    (flag : Byte) : (s.inspectFlag flag).RunInv := by
  have he : (s.emit (if btst flag maskVLF then [.clockUnreliable] else [])).Starting :=
    h.drift (.of_eq rfl rfl rfl rfl rfl)
  unfold State.inspectFlag
  dsimp only
  split
  · refine State.writeThen_post (he.memWrite _ _ _) (fun s hs => ?_) fun s r hs => (hs.setResult r).runInv
    exact State.writeControlThen_post (hs.writeControl _)
      (fun s hs ⟨hx, hk⟩ => hs.finishInit _ (by rw [hx, hk]; rfl)) fun s r hs => (hs.setResult r).runInv
  · exact he.finishInit _ hk

/-- A cache that masks Control does so after a write that leaves Control out. -/
theorem State.cache_memWrite_of_masked {s : State} {m : Byte} (hk : s.cache = s.x regControl &&& m) (a : Addr)
    (vs : List Byte) (i : inSpace a vs.length) (hm : TxInfo.misses ⟨a, vs.length, .write⟩ regControl) :
    (s.memWrite a vs i).2.cache = (s.memWrite a vs i).2.x regControl &&& m := by
  have d := State.drifts_memWrite s a vs i hm
  rw [d.control, ← hk]
  exact congrArg Prod.fst d.cacheView

/-- INIT keeps the invariant: it fails while still starting, or reaches the inspection with Control's byte cached. -/
theorem State.Starting.initSequence {s : State} (h : s.Starting) : s.initSequence.RunInv := by
  have failed (s : State) (r : Result) (hs : s.Starting) : (s.setResult r).RunInv := (hs.setResult r).runInv
  refine State.writeThen_post (h.memWrite _ _ _) (fun s h => ?_) failed
  refine State.writeThen_post (h.memWrite _ _ _) (fun s h => ?_) failed
  refine State.readThen_post (P := fun s' => s'.Starting ∧ s'.x regControl = s.interleave.x regControl) ?_
    (fun s' ⟨h, hx⟩ => ?_) fun s' r hs => failed s' r hs.1
  · refine ⟨h.drift (State.drifts_memRead s _ _ _), ?_⟩
    obtain ⟨tx, e⟩ := State.memRead_snd s regExtension 3 (by decide)
    rw [e]; rfl
  · have hc : (s'.setCache (initControl (s.interleave.x regControl))).Starting :=
      ⟨h.canonical, h.unarmed, h.unclean, h.alive⟩
    refine State.writeThen_post (P := fun s => s.Starting ∧ s.cache = s.x regControl &&& 0x7C#8)
      ⟨hc.memWrite _ _ _, State.cache_memWrite_of_masked ?_ _ _ _ (TxInfo.misses_of_ne _ (by decide))⟩
      (fun s'' ⟨h, hk⟩ => h.inspectFlag hk _) fun s'' r hs => failed s'' r hs.1
    rw [State.setCache_x, hx]
    rfl

/-- A failed INIT forgets the cache while `clean` has not begun. -/
theorem State.RunInv.forgetCache {s : State} (h : s.RunInv) : s.forgetCache.RunInv := by
  unfold State.forgetCache
  split
  · next hp =>
    obtain ⟨hr, hd, ha, hc, -⟩ := h
    exact ⟨hr, hd, ha, hc, fun hcl => absurd hp (hc hcl)⟩
  · exact h

/-- INIT runs from the fresh phase, under the lock, or waits for it (43_device.md R210, 20_memory.md R75). -/
theorem execInit_cases {s t : State} (h : exec .init s = .next t) :
    s.phase = .fresh ∧ (t = s.waitToIssue .init
      ∨ s.lock = .free ∧ t = (State.initBody (s.setLock .foreground)).setLock .free) := by
  obtain ⟨hp, h⟩ := State.whenFresh_next h
  refine ⟨hp, ?_⟩
  rcases State.locked_cases s .init State.initBody with ⟨hl, e⟩ | ⟨-, e⟩
  · rw [e] at h; cases h; exact .inr ⟨hl, rfl⟩
  · rw [e] at h; cases h; exact .inl rfl

theorem State.phase_fresh_iff (s : State) : s.phase = .fresh ↔ s.destroyed = false ∧ s.pstate = .unarmed := by
  unfold State.phase
  cases s.destroyed <;> cases s.pstate <;> simp

theorem State.RunInv.starting {s : State} (h : s.RunInv) (hp : s.phase = .fresh) : s.Starting := by
  obtain ⟨hd, hu⟩ := (State.phase_fresh_iff s).mp hp
  exact ⟨h.canonical, hu, by simpa [hu] using h.cleanInitialised, hd⟩

/-! ## Every step -/

theorem State.Inv.runInv {s : State} (h : s.Inv) : s.RunInv := (s.inv_iff_runInv.mp h).1

theorem State.RunInv.inv {s t : State} (ht : t.RunInv) (hs : s.Inv) (hp : t.params = s.params) (hl : t.lock = .free)
    (hd : t.shutdown = t.destroyed) : t.Inv :=
  t.inv_iff_runInv.mpr ⟨ht, hp ▸ hs.paramsAdmissible, hl, hd⟩

/-- Updates of the result, the schedule and the choices, and the steps of other agents, keep the invariant. -/
theorem State.Inv.drift {s t : State} (h : s.Inv) (d : s.Drifts t) (hl : t.lock = s.lock)
    (hs : t.shutdown = s.shutdown) : t.Inv :=
  (h.runInv.drift d).inv h d.params (hl.trans h.lockFree) (by rw [hs, d.destroyed, h.shutdownDestroyed])

/-- A body under the lock keeps the invariant if it keeps the part that holds inside it. -/
theorem State.Inv.unlock {s u : State} (h : s.Inv) (hu : u.RunInv) (l : Lock)
    (hsh : u.shell = (s.setLock l).shell) : (u.setLock .free).Inv := by
  obtain ⟨hs, hd, -, hp, -⟩ := State.shell_eq_iff.mp hsh
  have hr : (u.setLock .free).RunInv := hu.drift (.of_eq rfl rfl rfl rfl rfl)
  exact hr.inv h hp rfl (hs.trans (h.shutdownDestroyed.trans hd.symm))

theorem State.Inv.setLock_runInv {s : State} (h : s.Inv) (l : Lock) : (s.setLock l).RunInv :=
  h.runInv.drift (.of_eq rfl rfl rfl rfl rfl)

theorem State.Inv.teardown {s : State} (h : s.Inv) : s.teardown.Inv := by
  obtain ⟨n, l, u, hu, e⟩ := State.teardown_run s
  obtain ⟨hs, -, -, hp, -⟩ := State.shell_eq_iff.mp hu.shell_eq
  obtain ⟨hr, -, -, -, hk⟩ := hu.runInv passTransactions_misses_control
    (h.runInv.drift (.of_eq rfl rfl rfl rfl rfl))
  rw [e]
  exact ⟨hr, hp ▸ h.paramsAdmissible, rfl, fun _ => rfl, hs, by simp [State.succeed], by simp [State.succeed], hk⟩

theorem exec_inv {i : Instr} {s t : State} (hs : s.Inv) (h : exec i s = .next t) : t.Inv := by
  by_cases hi : i = .init
  · subst hi
    obtain ⟨hp, rfl | ⟨-, rfl⟩⟩ := execInit_cases h
    · exact hs.drift (.of_eq rfl rfl rfl rfl rfl) rfl rfl
    · have hstart := (hs.setLock_runInv .foreground).starting hp
      exact hs.unlock hstart.initSequence.forgetCache .foreground
        (initBody_run _ false _ (by simp) (by simp) rfl).shell_eq
  · rcases exec_cases h with ⟨r, rfl⟩ | ⟨-, rfl⟩ | ⟨-, -, u, rfl, hu⟩ | ⟨-, -, -, rfl⟩
    · exact hs.drift (.of_eq rfl rfl rfl rfl rfl) rfl rfl
    · exact hs.drift (.of_eq rfl rfl rfl rfl rfl) rfl rfl
    · have hr := hu true fun _ e => absurd e hi
      rw [decide_eq_false hi] at hr
      exact hs.unlock (hr.runInv (fun _ hx => listedTransactions_misses_control hx) (hs.setLock_runInv _)) _ hr.shell_eq
    · exact hs.teardown

/-- The re-arm keeps the invariant: a pass runs on a live device that has armed before (60_exceptions.md R257). -/
theorem State.RunInv.rearm {s : State} (h : s.RunInv) (hp : s.params.hasIrq = true) (hd : s.destroyed = false) :
    s.rearm.RunInv where
  canonical := h.canonical
  destroyedDisarmed := by simp [State.rearm, hd]
  armedHasLine _ := hp
  cleanInitialised _ := by cases hs : s.shutdown <;> simp [State.rearm, hs]
  coherent := h.coherent

theorem State.Inv.takeTurn {s : State} (h : s.Inv) (u : Turn) : (s.takeTurn u).Inv := by
  cases u with
  | idle => exact h
  | env e => exact h.drift (State.drifts_envStep s e) (State.envSteps_lock s [e]) (State.envSteps_shutdown s [e])
  | drain =>
    rcases State.drain_run s with ⟨l, e⟩ | ⟨hp, hd, u, hu, e⟩
    · rw [State.takeTurn, e]
      exact h.drift (.of_eq rfl rfl rfl rfl rfl) rfl rfl
    · have hr := hu.runInv passTransactions_misses_control (h.setLock_runInv _)
      obtain ⟨-, hd', -, hp', -⟩ := State.shell_eq_iff.mp hu.shell_eq
      rw [State.takeTurn, e]
      exact h.unlock (hr.rearm (by rw [hp']; exact h.armedHasLine (.inr hp)) (hd'.trans hd)) _ hu.shell_eq

/-- Settles O47: each of a step's three ways keeps the invariant. -/
theorem stepKeepsTheInvariant : Obligations.StepKeepsTheInvariant := by
  intro s t hs h
  obtain ⟨l, n, hw⟩ := step_ways h
  have hs' : State.Inv { s with inputs := l, drawCount := n } := hs.drift (.of_eq rfl rfl rfl rfl rfl) rfl rfl
  rcases hw with ⟨i, -, he⟩ | ⟨-, r, rfl⟩ | ⟨u, rfl⟩
  · exact exec_inv hs' he
  · exact hs'.drift (.of_eq rfl rfl rfl rfl rfl) rfl rfl
  · exact hs'.takeTurn u

/-! ## Reset -/

/-- The parameters at reset meet R7's constraint whatever the platform has. -/
theorem Config.wf_params : Config.params.wf = true := by
  have key : ∀ p : Params, (Config.admissible p).wf = true := by
    intro p
    unfold Config.admissible
    split
    · assumption
    · rfl
  exact key Config.platform

/-- After a reset of the core the invariant asks for the registers' form and admissible parameters only. -/
theorem State.inv_resetCore (s : State) (hr : Memory.wf s.regs = true) (hp : s.params.wf = true) : s.resetCore.Inv where
  regsCanonical := hr
  paramsAdmissible := hp
  lockFree := rfl
  destroyedDisarmed := by simp
  shutdownDestroyed := rfl
  armedHasLine := by simp
  cleanInitialised := by simp
  coherent := by simp [State.cacheCoherent]

/-- Settles O48: the state at reset is one that the core's reset leaves. -/
theorem resetSatisfiesTheInvariant : Obligations.ResetSatisfiesTheInvariant :=
  ⟨State.inv_resetCore State.reset rfl Config.wf_params, State.inv_resetCore⟩

end Sys2Proof.Machine
end

section
/-! PROOFS. Only INIT clears VLF: every other write of Flag writes VLF back as it was read, and no other agent clears a
flag in between (10_state.md R34, 60_exceptions.md R278, 70_reset_and_hazards.md R317). -/

namespace Sys2Proof.Machine

/-- VLF is set. -/
def State.Unreliable (s : State) : Prop := (s.x regFlag).getLsbD 1 = true

section rules

variable {s : State}

theorem State.Unreliable.interleave (h : s.Unreliable) : s.interleave.Unreliable := by
  rw [State.interleave_eq_skip]
  exact State.envSteps_flag_grows _ _ 1 h

theorem State.Unreliable.memRead (h : s.Unreliable) (a : Addr) (n : Nat) (i : inSpace a n) :
    (s.memRead a n i).2.Unreliable := by
  obtain ⟨tx, e⟩ := State.memRead_snd s a n i
  rw [e]
  exact h.interleave

/-- A write elsewhere, whatever it stores. -/
theorem State.Unreliable.memWrite (h : s.Unreliable) (a : Addr) (vs : List Byte) (i : inSpace a vs.length)
    (hm : TxInfo.misses ⟨a, vs.length, .write⟩ regFlag) : (s.memWrite a vs i).2.Unreliable := by
  rw [State.Unreliable, State.memWrite_x_of_misses s a vs i hm]
  exact h.interleave

/-- A write of Flag with VLF set, successful or not. -/
theorem State.Unreliable.memWrite_flag (h : s.Unreliable) (v : Byte) (hv : v.getLsbD 1 = true) :
    (s.memWrite regFlag [v] (inSpace_byte _)).2.Unreliable := by
  rcases State.memWrite_x_same s regFlag v with e | e
  · rw [State.Unreliable, e]; exact hv
  · rw [State.Unreliable, e]; exact h.interleave

theorem State.Unreliable.writeControl (h : s.Unreliable) (v : Byte) : (s.writeControl v).2.Unreliable := by
  rw [State.Unreliable, State.writeControl_x]
  exact h.memWrite regControl [v] (inSpace_byte _) (TxInfo.misses_of_ne _ (by decide))

theorem State.Unreliable.setResult (s : State) (r : Result) (h : s.Unreliable) : (s.setResult r).Unreliable := h

/-- Clearing AF writes VLF back (42_alarm.md R185, R186). -/
theorem bclr_maskAF_vlf {f : Byte} (h : f.getLsbD 1 = true) : (bclr f maskAF).getLsbD 1 = true := by
  simp [bclr, maskAF, h]

/-- A pass writes VLF back (60_exceptions.md R255). -/
theorem drainedFlag_vlf {f : Byte} (h : f.getLsbD 1 = true) : (drainedFlag f).getLsbD 1 = true := by
  revert f
  decide

variable {k : State → State}

theorem State.Unreliable.writeControlThen (h : s.Unreliable) (v : Byte)
    (hk : ∀ s', s'.Unreliable → (k s').Unreliable) : (s.writeControlThen v k).Unreliable :=
  State.writeControlThen_post (h.writeControl v) (fun s' h' _ => hk s' h') State.Unreliable.setResult

theorem State.Unreliable.clearAlarmFlagThen (h : s.Unreliable) (hk : ∀ s', s'.Unreliable → (k s').Unreliable) :
    (s.clearAlarmFlagThen k).Unreliable :=
  State.readByteThen_post (h.memRead _ _ _)
    (fun _ h' => State.writeThen_post (h'.memWrite_flag _ (bclr_maskAF_vlf h.interleave)) hk State.Unreliable.setResult)
    State.Unreliable.setResult

end rules

/-! ## The bodies but INIT's -/

section bodies

variable {s : State}

theorem State.Unreliable.getTimeBody (h : s.Unreliable) : s.getTimeBody.Unreliable :=
  State.readThen_post (h.memRead _ _ _) (fun s' h' => h'.setResult s' _) State.Unreliable.setResult

theorem State.Unreliable.getAlarmBody (h : s.Unreliable) : s.getAlarmBody.Unreliable :=
  State.readThen_post (h.memRead _ _ _)
    (fun _ h => State.readByteThen_post (h.memRead _ _ _) (fun s' h' => h'.setResult s' _) State.Unreliable.setResult)
    State.Unreliable.setResult

theorem State.Unreliable.clearStop (h : s.Unreliable) : s.clearStop.2.Unreliable :=
  State.clearStop_post (h.memRead _ _ _) (fun _ v h' => h'.writeControl v) fun _ h' => h'

theorem State.Unreliable.setTimeBody (t : CalendarTime) (h : s.Unreliable) : (State.setTimeBody t s).Unreliable := by
  refine State.readByteThen_post (h.memRead _ _ _) (fun s h => ?_) State.Unreliable.setResult
  refine h.writeControlThen _ fun s h => ?_
  have hm : TxInfo.misses ⟨regSec, 7, .write⟩ regFlag := .inr (by decide)
  exact (h.memWrite regSec (imageBytes (encodeImage t)) timeBlock_inSpace hm).clearStop

theorem State.Unreliable.programAlarm (a : AlarmSpec) (h : s.Unreliable) : (State.programAlarm a s).Unreliable := by
  have hm : TxInfo.misses ⟨regAlarmMin, 2, .write⟩ regFlag := .inr (by decide)
  refine State.writeThen_post (h.memWrite _ _ _ hm) (fun s h => ?_) State.Unreliable.setResult
  refine State.readByteThen_post (h.memRead _ _ _) (fun s h => ?_) State.Unreliable.setResult
  refine State.writeThen_post (h.memWrite _ _ _ (TxInfo.misses_of_ne _ (by decide))) (fun s h => ?_)
    State.Unreliable.setResult
  refine State.writeThen_post (h.memWrite _ _ _ (TxInfo.misses_of_ne _ (by decide))) (fun s h => ?_)
    State.Unreliable.setResult
  refine h.clearAlarmFlagThen fun s h => ?_
  unfold State.enableAlarm
  split
  · exact h.writeControlThen _ fun _ h => h
  · exact h

theorem State.Unreliable.setAlarmBody (a : AlarmSpec) (h : s.Unreliable) : (State.setAlarmBody a s).Unreliable := by
  rw [State.setAlarmBody_eq]
  unfold State.disableAlarmThen
  split
  · exact h.writeControlThen _ fun _ h => h.programAlarm a
  · exact h.programAlarm a

theorem State.Unreliable.alarmEnBody (e : Bool) (h : s.Unreliable) : (State.alarmEnBody e s).Unreliable := by
  refine h.clearAlarmFlagThen fun s h => ?_
  split
  · exact h
  · exact h.writeControlThen _ fun _ h => h

/-- The byte a pass writes is the one it read, drained. -/
theorem State.Unreliable.drainFlags (h : s.Unreliable) : s.drainFlags.Unreliable :=
  State.drainFlags_post (P := State.Unreliable) (h.memRead _ _ _)
    (fun s' es h' => (show (s'.emit es).Unreliable from h').memWrite_flag _ (drainedFlag_vlf h.interleave))
    (fun _ _ h' => h') fun _ _ h' => h'

theorem State.Unreliable.drainPass (h : s.Unreliable) : s.drainPass.Unreliable :=
  (show (s.setLock .deferred).Unreliable from h).drainFlags

end bodies

/-! ## Operations and turns -/

theorem State.Unreliable.teardown {s : State} (h : s.Unreliable) : s.teardown.Unreliable := by
  have h' : (s.setShutdown.setLock .free).advanceChoice.Unreliable := by
    rw [State.advanceChoice_eq_skip]; exact h
  rcases State.teardown_cases s with ⟨-, e⟩ | ⟨-, -, e⟩ | ⟨-, -, e⟩
  · rw [e]; exact h
  · rw [e]; exact h'
  · rw [e]; exact h'.drainPass

/-- With the lock free the body runs, else the operation waits. -/
theorem State.Unreliable.locked {s t : State} (h : s.Unreliable) {i : Instr} {body : State → State}
    (hb : ∀ s, s.Unreliable → (body s).Unreliable) (ht : s.locked i body = .next t) : t.Unreliable := by
  rcases State.locked_cases s i body with ⟨-, e⟩ | ⟨-, e⟩
  · rw [e] at ht; cases ht; exact hb (s.setLock .foreground) h
  · rw [e] at ht; cases ht; exact h

theorem exec_unreliable {i : Instr} {s t : State} (hi : i ≠ .init) (h : s.Unreliable) (ht : exec i s = .next t) :
    t.Unreliable := by
  cases i with
  | bcd2bin _ | bin2bcd _ | decode _ | encode _ | btst _ _ | bset _ _ | bclr _ _ => cases ht; exact h
  | getTime => exact h.locked (fun _ h => h.getTimeBody) (State.whenLive_next ht).2
  | setTime u =>
    obtain ⟨-, ht⟩ := State.whenLive_next ht
    split at ht
    · exact h.locked (fun _ h => h.setTimeBody u) ht
    · cases ht; exact h
  | getAlarm =>
    obtain ⟨-, ⟨-, ht⟩ | ⟨-, rfl⟩⟩ := State.whenAlarm_next ht
    · exact h.locked (fun _ h => h.getAlarmBody) ht
    · exact h
  | setAlarm a =>
    obtain ⟨-, ⟨-, ht⟩ | ⟨-, rfl⟩⟩ := State.whenAlarm_next ht
    · split at ht
      · exact h.locked (fun _ h => h.setAlarmBody a) ht
      · cases ht; exact h
    · exact h
  | alarmEn e =>
    obtain ⟨-, ⟨-, ht⟩ | ⟨-, rfl⟩⟩ := State.whenAlarm_next ht
    · exact h.locked (fun _ h => h.alarmEnBody e) ht
    · exact h
  | init => exact absurd rfl hi
  | shutdown =>
    rcases exec_cases ht with ⟨r, rfl⟩ | ⟨-, rfl⟩ | ⟨-, hn, -⟩ | ⟨-, -, -, rfl⟩
    · exact h
    · exact h
    · exact absurd rfl hn
    · exact h.teardown

theorem State.Unreliable.takeTurn {s : State} (h : s.Unreliable) (u : Turn) : (s.takeTurn u).Unreliable := by
  cases u with
  | idle => exact h
  | env e => exact State.envStep_flag_grows s e 1 h
  | drain =>
    rcases State.drain_cases s with ⟨-, e⟩ | ⟨-, -, -, e⟩ | ⟨-, -, -, e⟩
    · rw [State.takeTurn, e]; exact h
    · rw [State.takeTurn, e]; exact h
    · rw [State.takeTurn, e]; exact h.drainPass

/-- Settles O56: a step that is not INIT's keeps VLF set. -/
theorem onlyInitClearsVlf : Obligations.OnlyInitClearsVlf := by
  intro s t h (hs : s.Unreliable) ht
  by_contra hn
  have key : t.Unreliable := by
    obtain ⟨l, n, ⟨i, hi, he⟩ | ⟨-, r, rfl⟩ | ⟨u, rfl⟩⟩ := step_ways h
    · exact exec_unreliable (fun e => hn (e ▸ hi)) (by exact hs) he
    · exact hs
    · exact State.Unreliable.takeTurn (by exact hs) u
  exact Bool.noConfusion (ht.symm.trans key)

end Sys2Proof.Machine
end

section
/-! PROOFS. What each operation leaves unchanged where no other agent steps in between: the registers outside the stores
of the form that runs, and for the I/O operations of the live phase `pstate` and the event log (10_state.md R51,
20_memory.md R76). -/

namespace Sys2Proof.Machine

/-- From `s` to `t` no register outside `stores` has changed, and, where `io` is set, neither have `pstate` and the
event log, nor the cache unless Control is stored; the next `n` transactions are still undisturbed. -/
structure State.Framed (stores : Addr → Bool) (io : Bool) (n : Nat) (s t : State) : Prop where
  undisturbed : t.undisturbed n
  regs : ∀ a, stores a = false → t.x a = s.x a
  params : t.params = s.params
  cache : io = true → stores regControl = false → t.cache = s.cache
  sequencer : io = true → t.pstate = s.pstate ∧ t.events = s.events

section rules

variable {stores : Addr → Bool} {io : Bool} {n : Nat} {s₀ s : State}

theorem State.undisturbed_mono {m : Nat} (h : s.undisturbed n) (hm : m ≤ n) : s.undisturbed m :=
  fun k hk => h k (by omega)

theorem State.Framed.refl (h : s.undisturbed n) : State.Framed stores io n s s :=
  ⟨h, fun _ _ => rfl, rfl, fun _ _ => rfl, fun _ => ⟨rfl, rfl⟩⟩

theorem State.Framed.mono {m : Nat} (h : State.Framed stores io n s₀ s) (hm : m ≤ n) :
    State.Framed stores io m s₀ s :=
  ⟨State.undisturbed_mono h.undisturbed hm, h.regs, h.params, h.cache, h.sequencer⟩

theorem State.Framed.setResult (s : State) (r : Result) (h : State.Framed stores io n s₀ s) :
    State.Framed stores io 0 s₀ (s.setResult r) :=
  ⟨by simp [State.undisturbed], h.regs, h.params, h.cache, h.sequencer⟩

theorem State.Framed.setLock (h : State.Framed stores io n s₀ s) (l : Lock) :
    State.Framed stores io n s₀ (s.setLock l) :=
  ⟨h.undisturbed, h.regs, h.params, h.cache, h.sequencer⟩

/-- Events are no matter where the sequencer's fields are left out. -/
theorem State.Framed.emit (s : State) (es : List Event) (h : State.Framed stores false n s₀ s) :
    State.Framed stores false n s₀ (s.emit es) :=
  ⟨h.undisturbed, h.regs, h.params, nofun, nofun⟩

/-- With nobody stepping in, what stands before a transaction is the state with one choice used up. -/
theorem State.Framed.interleave (h : State.Framed stores io (n + 1) s₀ s) :
    State.Framed stores io n s₀ s.interleave where
  undisturbed k hk := by
    rw [State.choiceAt_interleave]
    exact h.undisturbed (k + 1) (by omega)
  regs a ha := by
    rw [State.interleave_calm s (h.undisturbed 0 (by omega))]
    exact h.regs a ha
  params := (State.interleave_params s).trans h.params
  cache hio hc := (State.interleave_cache s).trans (h.cache hio hc)
  sequencer hio := by
    rw [State.interleave_calm s (h.undisturbed 0 (by omega))]
    exact h.sequencer hio

theorem State.Framed.memRead (h : State.Framed stores io (n + 1) s₀ s) (a : Addr) (len : Nat) (i : inSpace a len) :
    State.Framed stores io n s₀ (s.memRead a len i).2 := by
  obtain ⟨tx, e⟩ := State.memRead_snd s a len i
  obtain ⟨hu, hr, hp, hc, hs⟩ := h.interleave
  rw [e]
  exact ⟨hu, hr, hp, hc, hs⟩

theorem State.Framed.memWrite (h : State.Framed stores io (n + 1) s₀ s) (a : Addr) (vs : List Byte)
    (i : inSpace a vs.length) (hm : ∀ b, stores b = false → TxInfo.misses ⟨a, vs.length, .write⟩ b) :
    State.Framed stores io n s₀ (s.memWrite a vs i).2 := by
  have hx := fun b hb => State.memWrite_x_of_misses s a vs i (hm b hb)
  obtain ⟨ks, tx, e⟩ := State.memWrite_snd s a vs i
  obtain ⟨hu, hr, hp, hc, hs⟩ := h.interleave
  rw [e] at hx ⊢
  exact ⟨hu, fun b hb => (hx b hb).trans (hr b hb), hp, hc, hs⟩

/-- A one-byte store at an address of the frame's stores. -/
theorem State.Framed.memWriteByte (h : State.Framed stores io (n + 1) s₀ s) {a : Addr} (ha : stores a = true)
    (v : Byte) : State.Framed stores io n s₀ (s.memWrite a [v] (inSpace_byte _)).2 :=
  h.memWrite a [v] _ fun b hb => TxInfo.misses_of_ne _ fun e => by simp [e, ha] at hb

theorem State.Framed.writeControl (h : State.Framed stores io (n + 1) s₀ s) (hc : stores regControl = true)
    (v : Byte) : State.Framed stores io n s₀ (s.writeControl v).2 := by
  obtain ⟨hu, hr, hp, -, hs⟩ := h.memWriteByte hc v
  have hno {P : Prop} (hf : stores regControl = false) : P := by simp [hc] at hf
  rcases State.writeControl_snd s v with e | e
  · rw [e]; exact ⟨hu, hr, hp, fun _ => hno, hs⟩
  · rw [e]; exact ⟨hu, hr, hp, fun _ => hno, hs⟩

variable {k : State → State}

theorem State.Framed.writeByteThen (h : State.Framed stores io (n + 1) s₀ s) {a : Addr} (ha : stores a = true)
    (v : Byte) (hk : ∀ s', State.Framed stores io n s₀ s' → State.Framed stores io 0 s₀ (k s')) :
    State.Framed stores io 0 s₀ (s.writeByteThen a v k) :=
  State.writeThen_post (h.memWriteByte ha v) hk State.Framed.setResult

theorem State.Framed.writeControlThen (h : State.Framed stores io (n + 1) s₀ s) (hc : stores regControl = true)
    (v : Byte) (hk : ∀ s', State.Framed stores io n s₀ s' → State.Framed stores io 0 s₀ (k s')) :
    State.Framed stores io 0 s₀ (s.writeControlThen v k) :=
  State.writeControlThen_post (h.writeControl hc v) (fun s' h' _ => hk s' h') State.Framed.setResult

theorem State.Framed.clearAlarmFlagThen (h : State.Framed stores io (n + 2) s₀ s) (hf : stores regFlag = true)
    (hk : ∀ s', State.Framed stores io n s₀ s' → State.Framed stores io 0 s₀ (k s')) :
    State.Framed stores io 0 s₀ (s.clearAlarmFlagThen k) :=
  State.readByteThen_post (h.memRead _ _ _) (fun _ h' => h'.writeByteThen hf _ hk) State.Framed.setResult

/-! ## The bodies -/

theorem State.Framed.getTimeBody (h : State.Framed stores io 1 s₀ s) : State.Framed stores io 0 s₀ s.getTimeBody :=
  State.readThen_post (h.memRead _ _ _) (fun s' h' => h'.setResult s' _) State.Framed.setResult

theorem State.Framed.getAlarmBody (h : State.Framed stores io 2 s₀ s) : State.Framed stores io 0 s₀ s.getAlarmBody :=
  State.readThen_post (h.memRead _ _ _)
    (fun _ h => State.readByteThen_post (h.memRead _ _ _) (fun s' h' => h'.setResult s' _) State.Framed.setResult)
    State.Framed.setResult

theorem State.Framed.setTimeBody (h : State.Framed stores io 5 s₀ s) (t : CalendarTime)
    (ht : ∀ b, stores b = false → isTimeRegister b = false) (hc : stores regControl = true) :
    State.Framed stores io 0 s₀ (State.setTimeBody t s) := by
  refine State.readByteThen_post (h.memRead _ _ _) (fun s h => ?_) State.Framed.setResult
  refine h.writeControlThen hc _ fun s h => ?_
  have hw := h.memWrite regSec (imageBytes (encodeImage t)) timeBlock_inSpace fun b hb =>
    TxInfo.misses_timeBlock (ht b hb)
  refine State.Framed.setResult _ _ (State.clearStop_post (Q := State.Framed stores io 0 s₀) (hw.memRead _ _ _) ?_ ?_)
  · exact fun s v h => h.writeControl hc v
  · exact fun s h => h.mono (by omega)

theorem State.Framed.programAlarm (h : State.Framed stores io 7 s₀ s) (a : AlarmSpec)
    (hpair : ∀ b, stores b = false → TxInfo.misses ⟨regAlarmMin, 2, .write⟩ b) (hday : stores regAlarmDay = true)
    (hext : stores regExtension = true) (hflag : stores regFlag = true)
    (hc : a.enabled = true → stores regControl = true) :
    State.Framed stores io 0 s₀ (State.programAlarm a s) := by
  refine State.writeThen_post (h.memWrite _ _ _ hpair) (fun s h => ?_) State.Framed.setResult
  refine State.readByteThen_post (h.memRead _ _ _) (fun s h => ?_) State.Framed.setResult
  refine h.writeByteThen hext _ fun s h => h.writeByteThen hday _ fun s h => h.clearAlarmFlagThen hflag fun s h => ?_
  unfold State.enableAlarm
  split
  · next he => exact h.writeControlThen (hc he) _ fun s h => h.setResult s _
  · exact h.setResult s _

/-- SETALARM writes Control where the cache has the alarm enabled or the caller asks for it (42_alarm.md R185). -/
theorem State.Framed.setAlarmBody (h : State.Framed stores io 8 s₀ s) (a : AlarmSpec)
    (hpair : ∀ b, stores b = false → TxInfo.misses ⟨regAlarmMin, 2, .write⟩ b) (hday : stores regAlarmDay = true)
    (hext : stores regExtension = true) (hflag : stores regFlag = true)
    (hc : btst s.cache maskAIE = true ∨ a.enabled = true → stores regControl = true) :
    State.Framed stores io 0 s₀ (State.setAlarmBody a s) := by
  have rest (s : State) (h : State.Framed stores io 7 s₀ s) : State.Framed stores io 0 s₀ (State.programAlarm a s) :=
    h.programAlarm a hpair hday hext hflag fun he => hc (.inr he)
  rw [State.setAlarmBody_eq]
  unfold State.disableAlarmThen
  split
  · next he => exact h.writeControlThen (hc (.inl he)) _ rest
  · exact rest s (h.mono (by omega))

/-- ALARMEN tests the cache after AF's clearing; no Control write has come in between. -/
theorem State.Framed.alarmEnBody (h : State.Framed stores true 3 s₀ s) (e : Bool) (hflag : stores regFlag = true)
    (hc : stores regControl = false → bput s₀.cache maskAIE e = s₀.cache) :
    State.Framed stores true 0 s₀ (State.alarmEnBody e s) := by
  refine h.clearAlarmFlagThen hflag fun s' h' => ?_
  split
  · exact h'.setResult s' _
  · next hne =>
    have hst : stores regControl = true := by
      by_contra hf
      rw [Bool.not_eq_true] at hf
      exact hne (by rw [h.cache rfl hf, h'.cache rfl hf, hc hf])
    exact h'.writeControlThen hst _ fun s h => h.setResult s _

theorem State.Framed.finishInit (h : State.Framed stores false n s₀ s) (zeroed needsReset : Bool) :
    State.Framed stores false 0 s₀ (s.finishInit zeroed needsReset) :=
  ⟨by simp [State.undisturbed], h.regs, h.params, nofun, nofun⟩

theorem State.Framed.inspectFlag (h : State.Framed stores false 2 s₀ s) (flag : Byte)
    (hz : btst flag maskAnyFlag = true → stores regFlag = true ∧ stores regControl = true) :
    State.Framed stores false 0 s₀ (s.inspectFlag flag) := by
  have he := h.emit s (if btst flag maskVLF then [.clockUnreliable] else [])
  unfold State.inspectFlag
  dsimp only
  split
  · next hf =>
    obtain ⟨hflag, hc⟩ := hz hf
    exact he.writeByteThen hflag _ fun s h => h.writeControlThen hc _ fun s h => h.finishInit _ _
  · exact he.finishInit _ _

/-- INIT zeroes Flag and Control if the Flag byte it reads says so, and that byte is the one Flag held before. -/
theorem State.Framed.initBody (h : State.Framed stores false 6 s₀ s) (h0 : stores s₀.params.rsv0Addr = true)
    (h1 : stores s₀.params.rsv1Addr = true) (hext : stores regExtension = true)
    (hz : stores regFlag = true ∧ stores regControl = true
      ∨ stores regFlag = false ∧ btst (s₀.x regFlag) maskAnyFlag = false) :
    State.Framed stores false 0 s₀ s.initBody := by
  have key : State.Framed stores false 0 s₀ s.initSequence := by
    refine h.writeByteThen (h.params ▸ h0) _ fun s h => h.writeByteThen (h.params ▸ h1) _ fun s h => ?_
    refine State.readThen_post (h.memRead _ _ _) (fun s' h' => ?_) State.Framed.setResult
    have hl (v : Byte) : State.Framed stores false 3 s₀ (s'.setCache v) :=
      ⟨h'.undisturbed, h'.regs, h'.params, nofun, nofun⟩
    refine (hl _).writeByteThen hext _ fun s'' h'' => h''.inspectFlag _ fun hf => ?_
    rcases hz with hz | ⟨hs, hb⟩
    · exact hz
    · have : btst (s.interleave.x regFlag) maskAnyFlag = true := hf
      simp [h.interleave.regs _ hs, hb] at this
  unfold State.initBody State.forgetCache
  split
  · exact ⟨key.undisturbed, key.regs, key.params, nofun, nofun⟩
  · exact key

theorem State.Framed.drainPass (h : State.Framed stores false 2 s₀ s) (hf : stores regFlag = true) :
    State.Framed stores false 0 s₀ s.drainPass := by
  have key : State.Framed stores false 0 s₀ (s.setLock .deferred).drainFlags :=
    State.drainFlags_post ((h.setLock _).memRead _ _ _) (fun s' es h' => (h'.emit s' es).memWriteByte hf _)
      (fun s' es h' => (h'.emit s' es).mono (by omega)) State.Framed.emit
  exact ⟨key.undisturbed, key.regs, key.params, nofun, nofun⟩

end rules

/-! ## The stores of the form that runs -/

/-- The reserved addresses of an admissible device are not Flag (00_scope.md R7). -/
theorem Params.wf_not_flag {p : Params} (h : p.wf = true) : p.rsv0Addr ≠ regFlag ∧ p.rsv1Addr ≠ regFlag := by
  simp only [Params.wf, Bool.and_eq_true, Bool.not_eq_true'] at h
  obtain ⟨⟨-, h0⟩, h1⟩ := h
  have hn : Addr.isNamed regFlag = true := by decide
  constructor
  · intro e; simp [e, hn] at h0
  · intro e; simp [e, hn] at h1

/-- Setting AIE to what it is changes nothing (42_alarm.md R186). -/
theorem bput_btst_maskAIE (b : Byte) : bput b maskAIE (btst b maskAIE) = b := by
  revert b
  decide

/-- With the lock free a body runs under it, and its frame is the operation's. -/
theorem State.Framed.locked {stores : Addr → Bool} {io : Bool} {n : Nat} {s t : State} (hu : s.undisturbed n)
    (hl : s.lock = .free) {i : Instr} {body : State → State} (ht : s.locked i body = .next t)
    (hb : ∀ s', State.Framed stores io n s s' → s'.cache = s.cache → State.Framed stores io 0 s (body s')) :
    State.Framed stores io 0 s t := by
  rw [State.locked_free hl] at ht
  cases ht
  exact (hb _ ((State.Framed.refl hu).setLock .foreground) rfl).setLock .free

/-- SHUTDOWN stores only where it awaits a pass, which drains Flag (43_device.md R214). -/
theorem State.Framed.teardown {s : State} (hu : s.undisturbed 8) :
    State.Framed (storesIn s .shutdown) false 0 s s.teardown := by
  have hnext : State.Framed (storesIn s .shutdown) false 7 s (s.setShutdown.setLock .free).advanceChoice := by
    rw [State.advanceChoice_eq_skip]
    exact ⟨fun k hk => by simpa [Nat.add_comm] using hu (k + 1) (by omega), fun _ _ => rfl, rfl, nofun, nofun⟩
  have finish {v : State} (h : State.Framed (storesIn s .shutdown) false 0 s v) :
      State.Framed (storesIn s .shutdown) false 0 s (v.setDestroyed.succeed .none) :=
    ⟨h.undisturbed, h.regs, h.params, nofun, nofun⟩
  rcases State.teardown_cases s with ⟨-, e⟩ | ⟨-, -, e⟩ | ⟨hp, ha, e⟩
  · rw [e]
    exact ⟨by simp [State.undisturbed], fun _ _ => rfl, rfl, nofun, nofun⟩
  · have h := hnext.mono (Nat.zero_le _)
    rw [e]
    exact finish ⟨h.undisturbed, h.regs, h.params, nofun, nofun⟩
  · have hflag : storesIn s .shutdown regFlag = true := by
      rw [State.nextChoice_eq] at ha
      simp [storesIn, mayStore, regFlag, hp, ha]
    rw [e]
    exact finish ((hnext.mono (by omega)).drainPass hflag)

/-- Each operation keeps to the frame of its form; SHUTDOWN and INIT may move the sequencer. -/
theorem exec_framed {i : Instr} {s t : State} (hw : s.params.wf = true) (hu : s.undisturbed 8) (hl : s.lock = .free)
    (ht : exec i s = .next t) :
    State.Framed (storesIn s i) (decide (i ≠ .init ∧ i ≠ .shutdown)) 0 s t := by
  have same {io : Bool} (r : Result) : State.Framed (storesIn s i) io 0 s (s.setResult r) :=
    (State.Framed.refl hu).setResult s r
  cases i with
  | bcd2bin _ | bin2bcd _ | decode _ | encode _ | btst _ _ | bset _ _ | bclr _ _ => cases ht; exact same _
  | getTime =>
    exact .locked (State.undisturbed_mono hu (by omega)) hl (State.whenLive_next ht).2 fun _ h _ => h.getTimeBody
  | setTime u =>
    obtain ⟨-, ht⟩ := State.whenLive_next ht
    split at ht
    · next hv =>
      refine .locked (State.undisturbed_mono hu (by omega)) hl ht fun _ h _ => h.setTimeBody u (fun b hb => ?_) ?_
      · simp only [storesIn, mayStore, hv, Bool.and_true, Bool.or_eq_false_iff] at hb
        exact hb.1
      · simp [storesIn, mayStore, hv, regControl]
    · cases ht; exact same _
  | getAlarm =>
    obtain ⟨-, ⟨-, ht⟩ | ⟨-, rfl⟩⟩ := State.whenAlarm_next ht
    · exact .locked (State.undisturbed_mono hu (by omega)) hl ht fun _ h _ => h.getAlarmBody
    · exact same _
  | setAlarm a =>
    obtain ⟨-, ⟨hi, ht⟩ | ⟨-, rfl⟩⟩ := State.whenAlarm_next ht
    · split at ht
      · next hv =>
        refine .locked hu hl ht fun s' h hk => h.setAlarmBody a (fun b hb => ?_) ?_ ?_ ?_ fun hc => ?_
        · refine TxInfo.misses_alarmPair ?_ ?_ <;> rintro rfl <;> simp [storesIn, mayStore, hi, hv] at hb
        · simp [storesIn, mayStore, hi, hv, regAlarmDay]
        · simp [storesIn, mayStore, hi, hv, regExtension]
        · simp [storesIn, mayStore, hi, hv, regFlag]
        · rw [hk] at hc
          simpa [storesIn, mayStore, hi, hv, regControl] using hc
      · cases ht; exact same _
    · exact same _
  | alarmEn e =>
    obtain ⟨-, ⟨hi, ht⟩ | ⟨-, rfl⟩⟩ := State.whenAlarm_next ht
    · refine .locked (State.undisturbed_mono hu (by omega)) hl ht fun _ h _ => h.alarmEnBody e ?_ fun hc => ?_
      · simp [storesIn, mayStore, hi, regFlag]
      · have he : btst s.cache maskAIE = e := by simpa [storesIn, mayStore, hi, regControl] using hc
        rw [← he]
        exact bput_btst_maskAIE s.cache
    · exact same _
  | init =>
    obtain ⟨-, ht⟩ := State.whenFresh_next ht
    obtain ⟨hf0, hf1⟩ := Params.wf_not_flag hw
    obtain ⟨hc0, hc1⟩ := Params.wf_not_control hw
    simp only [regFlag, regControl] at hf0 hf1 hc0 hc1
    refine .locked (State.undisturbed_mono hu (by omega)) hl ht fun _ h _ => h.initBody ?_ ?_ ?_ ?_
    · simp [storesIn, mayStore, hf0, hc0]
    · simp [storesIn, mayStore, hf1, hc1]
    · simp [storesIn, mayStore, regExtension]
    · cases hz : btst (s.x 0x1E#8) maskAnyFlag
      · exact .inr ⟨by simp [storesIn, regFlag, hz], hz⟩
      · exact .inl ⟨by simp [storesIn, mayStore, regFlag, hz], by simp [storesIn, mayStore, regControl, hz]⟩
  | shutdown =>
    rcases exec_cases ht with ⟨r, rfl⟩ | ⟨hl', -⟩ | ⟨-, hn, -⟩ | ⟨-, -, -, rfl⟩
    · exact same r
    · exact absurd hl hl'
    · exact absurd rfl hn
    · exact State.Framed.teardown hu

/-! ## The other fields -/

/-- An operation that may not assign the cache leaves R48's conditions alone too (R51). -/
theorem exec_cacheView {i : Instr} {s t : State} (hi : mayAssignCache i = false) (ht : exec i s = .next t) :
    t.cacheView = s.cacheView := by
  have hc : txWrite regControl 1 ∉ listedTransactions s.params i := by
    cases i <;> simp [mayAssignCache, listedTransactions, passTransactions, txRead, txWrite, regControl] at hi ⊢
  rcases exec_cases ht with ⟨r, rfl⟩ | ⟨-, rfl⟩ | ⟨-, -, u, rfl, hu⟩ | ⟨-, rfl, -, rfl⟩
  · rfl
  · rfl
  · have hr := hu false (by simp)
    rw [decide_eq_false (by rintro rfl; simp [mayAssignCache] at hi)] at hr
    exact hr.cacheView_eq hc
  · obtain ⟨n, l, u, hu, e⟩ := State.teardown_run s
    rw [e]
    exact hu.cacheView_eq hc

/-- Issued with the lock free, an operation ends with it free and leaves the schedule alone (20_memory.md R75). -/
theorem exec_lock_inputs {i : Instr} {s t : State} (hl : s.lock = .free) (ht : exec i s = .next t) :
    t.lock = .free ∧ t.inputs = s.inputs := by
  rcases exec_cases ht with ⟨r, rfl⟩ | ⟨hl', -⟩ | ⟨-, -, u, rfl, hu⟩ | ⟨-, -, -, rfl⟩
  · exact ⟨hl, rfl⟩
  · exact absurd hl hl'
  · obtain ⟨-, -, -, -, hin⟩ := State.shell_eq_iff.mp (hu false (by simp)).shell_eq
    exact ⟨rfl, hin⟩
  · obtain ⟨n, l, u, hu, e⟩ := State.teardown_run s
    obtain ⟨-, -, -, -, hin⟩ := State.shell_eq_iff.mp hu.shell_eq
    rw [e]
    exact ⟨rfl, hin⟩

/-- Settles O53: registers, `pstate` and events by the frame of the form that runs, the rest as on every path. -/
theorem operationFrames : Obligations.OperationFrames := by
  intro i s t hw hu hl ht
  have hf := exec_framed hw hu hl ht
  obtain ⟨hlock, hin⟩ := exec_lock_inputs hl ht
  have hcache (hi : mayAssignCache i = false) : t.cache = s.cache ∧ t.clean = s.clean ∧ t.synced = s.synced := by
    simpa [State.cacheView] using exec_cacheView hi ht
  refine ⟨hf.regs, fun hi => (hcache hi).1, fun hi => ?_, fun hs hi => hf.sequencer (decide_eq_true ⟨hi, hs⟩),
    fun hi => (hcache hi).2, hlock, hf.params, hin⟩
  rcases exec_shutdown_destroyed ht with h | ⟨rfl, -⟩
  · exact h
  · exact absurd rfl hi

end Sys2Proof.Machine
end

section
/-! PROOFS. One transaction byte by byte (20_memory.md R63 to R69), and the canonical form of the register space
(log entry 1). -/

namespace Sys2Proof.Machine

/-! ## Blocks -/

/-- Inside the address space a block's addresses do not wrap (20_memory.md R70). -/
theorem toNat_add_of_inSpace {a : Addr} {n k : Nat} (h : inSpace a n) (hk : k < n) :
    (a + BitVec.ofNat 8 k).toNat = a.toNat + k := by
  have : a.toNat + n ≤ 256 := h
  rw [BitVec.toNat_add, BitVec.toNat_ofNat]
  omega

theorem State.x_add_of_inSpace (s : State) {a : Addr} {n k : Nat} (h : inSpace a n) (hk : k < n) :
    s.x (a + BitVec.ofNat 8 k) = Memory.read s.regs (a.toNat + k) := by
  rw [State.x, Memory.get, toNat_add_of_inSpace h hk]

/-- A block read returns its bytes in ascending addresses (R64). -/
theorem Memory.getD_readBlock (m : Memory) (a : Nat) {n k : Nat} (hk : k < n) :
    (Memory.readBlock m a n).getD k 0 = Memory.read m (a + k) := by
  induction n generalizing a k with
  | zero => omega
  | succ n ih =>
    cases k with
    | zero => rfl
    | succ j =>
      rw [Memory.readBlock, List.getD_cons_succ, ih (a + 1) (by omega), show a + (j + 1) = a + 1 + j by omega]

/-- Settles O58: the block read and the block write of the registers as the other agents leave them. -/
theorem transactionsReadAndStoreAscending : Obligations.TransactionsReadAndStoreAscending := by
  intro s a ho
  refine ⟨fun n h => ?_, fun vs h => ?_⟩
  · rw [State.memRead_of_ok a n h ho]
    refine ⟨_, rfl, Memory.readBlock_length _ _ _, rfl, fun k hk => ?_⟩
    rw [State.x_add_of_inSpace _ h hk, Memory.getD_readBlock _ _ hk]
  · have hmiss (b : Addr) := State.memWrite_x_of_misses s a vs h (b := b)
    rw [State.memWrite_of_ok a vs h ho] at hmiss ⊢
    refine ⟨rfl, fun k hk => ?_, hmiss⟩
    rw [State.x_add_of_inSpace _ h hk, List.getD_eq_getElem _ _ hk]
    exact Memory.read_writeBlock_inside vs _ _ k hk

/-- Settles O59: a failed write is a draw per byte of its block. -/
theorem failedTransactionsLeaveOldOrNew : Obligations.FailedTransactionsLeaveOldOrNew := by
  intro s a stored ho
  refine ⟨fun n h => ?_, fun vs h => ?_⟩
  · rw [State.memRead_of_fails a n h ho]
    exact ⟨rfl, rfl⟩
  · have hmiss (b : Addr) := State.memWrite_x_of_misses s a vs h (b := b)
    rw [State.memWrite_of_fails a vs h ho] at hmiss ⊢
    refine ⟨rfl, fun k hk => ?_, hmiss⟩
    rw [State.x_add_of_inSpace _ h hk, State.x_add_of_inSpace _ h hk, List.getD_eq_getElem _ _ hk]
    exact Memory.read_writeSome_inside stored vs _ _ k hk

/-! ## The canonical form -/

/-- What a canonical list's first entry and its rest are. -/
theorem Memory.wfFrom_cons {lo k : Nat} {v : Byte} {m : Memory} (w : Memory.wfFrom lo ((k, v) :: m) = true) :
    lo ≤ k ∧ k < 256 ∧ v ≠ blankByte ∧ Memory.wfFrom (k + 1) m = true := by
  simpa [Memory.wfFrom, and_assoc] using w

/-- Below its lower bound a canonical list reads blank. -/
theorem Memory.read_of_lt_wfFrom {lo a : Nat} {m : Memory} (w : Memory.wfFrom lo m = true) (ha : a < lo) :
    Memory.read m a = blankByte := by
  induction m generalizing lo with
  | nil => rfl
  | cons c t ih =>
    obtain ⟨k, v⟩ := c
    obtain ⟨hlo, -, -, ht⟩ := Memory.wfFrom_cons w
    rw [Memory.read, if_neg (by omega), ih ht (by omega)]

theorem Memory.read_cons_same (k : Nat) (v : Byte) (m : Memory) : Memory.read ((k, v) :: m) k = v := by
  simp [Memory.read]

/-- A canonical list has its first entry at the first address that does not read blank. -/
theorem Memory.le_key_of_read_eq {lo j k : Nat} {v w : Byte} {t u : Memory}
    (ht : Memory.wfFrom lo ((k, v) :: t) = true) (hu : Memory.wfFrom lo ((j, w) :: u) = true)
    (h : ∀ a < 256, Memory.read ((k, v) :: t) a = Memory.read ((j, w) :: u) a) : j ≤ k := by
  obtain ⟨-, hk, hv, -⟩ := Memory.wfFrom_cons ht
  obtain ⟨-, hj, hw, hu'⟩ := Memory.wfFrom_cons hu
  by_contra hlt
  have hb : Memory.read ((j, w) :: u) k = blankByte := by
    rw [Memory.read, if_neg (by omega), Memory.read_of_lt_wfFrom hu' (by omega)]
  exact hv (by rw [← Memory.read_cons_same k v t, h k hk, hb])

/-- A canonical list that reads blank everywhere is empty. -/
theorem Memory.eq_nil_of_read_blank {lo : Nat} {m : Memory} (w : Memory.wfFrom lo m = true)
    (h : ∀ a < 256, Memory.read m a = blankByte) : m = [] := by
  cases m with
  | nil => rfl
  | cons c t =>
    obtain ⟨k, v⟩ := c
    obtain ⟨-, hk, hv, -⟩ := Memory.wfFrom_cons w
    exact absurd ((Memory.read_cons_same k v t).symm.trans (h k hk)) hv

/-- Canonical lists that read alike have the same first entry, and rests that read alike. -/
theorem Memory.eq_of_read_eq {lo : Nat} {m n : Memory} (hm : Memory.wfFrom lo m = true)
    (hn : Memory.wfFrom lo n = true) (h : ∀ a < 256, Memory.read m a = Memory.read n a) : m = n := by
  induction m generalizing lo n with
  | nil => exact (Memory.eq_nil_of_read_blank hn fun a ha => (h a ha).symm).symm
  | cons c t ih =>
    cases n with
    | nil => exact Memory.eq_nil_of_read_blank hm h
    | cons d u =>
      obtain ⟨k, v⟩ := c
      obtain ⟨j, w⟩ := d
      obtain rfl : k = j := Nat.le_antisymm (Memory.le_key_of_read_eq hn hm fun a ha => (h a ha).symm)
        (Memory.le_key_of_read_eq hm hn h)
      obtain ⟨-, hk, -, ht⟩ := Memory.wfFrom_cons hm
      obtain ⟨-, -, -, hu⟩ := Memory.wfFrom_cons hn
      obtain rfl : v = w := by simpa [Memory.read] using h k hk
      have hrest : ∀ a < 256, Memory.read t a = Memory.read u a := by
        intro a ha
        by_cases hak : a ≤ k
        · rw [Memory.read_of_lt_wfFrom ht (by omega), Memory.read_of_lt_wfFrom hu (by omega)]
        · have := h a ha
          rwa [Memory.read, Memory.read, if_neg (by omega), if_neg (by omega)] at this
      rw [ih ht hu hrest]

/-- Settles O60: the addresses are the keys below 256. -/
theorem canonicalRegisterSpacesAreEqual : Obligations.CanonicalRegisterSpacesAreEqual := by
  intro m n hm hn h
  refine Memory.eq_of_read_eq hm hn fun a ha => ?_
  have := h (BitVec.ofNat 8 a)
  rwa [Memory.get, Memory.get, BitVec.toNat_ofNat, Nat.mod_eq_of_lt ha] at this

end Sys2Proof.Machine
end

section
/-! PROOFS. What the transactions of a run leave in the trace: each one is listed for its operation (20_memory.md R62),
and the cache is the byte of the last Control write among them that succeeded (R82). -/

namespace Sys2Proof.Machine

/-! ## What one transaction records -/

theorem State.memRead_record (s : State) (a : Addr) (n : Nat) (h : inSpace a n) :
    ∃ tx : Transaction, tx.info = ⟨a, n, .read⟩ ∧ (s.memRead a n h).2 = s.interleave.record tx := by
  rcases State.memRead_cases s a n h with e | e
  · exact ⟨_, rfl, by rw [e]⟩
  · exact ⟨_, rfl, by rw [e]⟩

/-- A write records the transaction that its stores replay (20_memory.md R65, R66, R69). -/
theorem State.memWrite_record (s : State) (a : Addr) (vs : List Byte) (h : inSpace a vs.length) :
    ∃ (tx : Transaction) (m : Memory), tx.info = ⟨a, vs.length, .write⟩ ∧ Replays s.interleave.regs [tx] m
      ∧ (s.memWrite a vs h).2 = (s.interleave.setRegs m).record tx := by
  rcases State.memWrite_cases s a vs h with e | ⟨ks, e⟩
  · exact ⟨⟨_, vs, true⟩, _, rfl, .stored _ _ _ _ rfl rfl (.done _), by rw [e]⟩
  · exact ⟨⟨_, vs, false⟩, _, rfl, .failed _ _ _ _ ks rfl rfl (.done _), by rw [e]⟩

theorem lastControlWrite_append (c : Byte) (xs ys : List Transaction) :
    lastControlWrite c (xs ++ ys) = lastControlWrite (lastControlWrite c xs) ys := by
  induction xs generalizing c with
  | nil => rfl
  | cons x xs ih => exact ih _

/-- A transaction that is no Control write leaves the cache's byte. -/
theorem lastControlWrite_other (c : Byte) {tx : Transaction} (h : tx.info ≠ txWrite regControl 1) :
    lastControlWrite c [tx] = c := by
  have hc : tx.isControlWrite = false := beq_eq_false_iff_ne.mpr h
  simp [lastControlWrite, hc]

theorem lastControlWrite_stored (c v : Byte) : lastControlWrite c [⟨txWrite regControl 1, [v], true⟩] = v := rfl

/-- A Control write records itself, and leaves the cache as R82 has it after that record. -/
theorem State.writeControl_record (s : State) (v : Byte) : ∃ tx : Transaction, tx.info = txWrite regControl 1
    ∧ (s.writeControl v).2.trace = s.trace ++ [tx] ∧ (s.writeControl v).2.cache = lastControlWrite s.cache [tx] := by
  rcases State.memWrite_cases s regControl [v] (inSpace_byte _) with e | ⟨ks, e⟩
  · exact ⟨⟨txWrite regControl 1, [v], true⟩, rfl, by simp [State.writeControl, e, txWrite],
      by simp [State.writeControl, e, lastControlWrite_stored]⟩
  · exact ⟨⟨txWrite regControl 1, [v], false⟩, rfl, by simp [State.writeControl, e, txWrite],
      by simp [State.writeControl, e, lastControlWrite]⟩

/-! ## Runs -/

/-- From `s` to `t` the trace has grown by transactions that `ok` allows; where `tracked` holds, the cache is the byte of
the last successful Control write among them. -/
def State.Issues (ok : TxInfo → Prop) (tracked : Prop) (s t : State) : Prop :=
  ∃ new, t.trace = s.trace ++ new ∧ (∀ x ∈ new, ok x.info) ∧ (tracked → t.cache = lastControlWrite s.cache new)

section issues

variable {ok : TxInfo → Prop} {tracked : Prop} {s t u : State}

/-- Nothing was issued, and the cache stayed. -/
theorem State.Issues.of_eq (ht : t.trace = s.trace) (hc : tracked → t.cache = s.cache) :
    State.Issues ok tracked s t :=
  ⟨[], by simp [ht], by simp, hc⟩

theorem State.Issues.trans (h : State.Issues ok tracked s t) (k : State.Issues ok tracked t u) :
    State.Issues ok tracked s u := by
  obtain ⟨new, ht, ha, hc⟩ := h
  obtain ⟨more, ht', ha', hc'⟩ := k
  refine ⟨new ++ more, ?_, List.forall_mem_append.mpr ⟨ha, ha'⟩, fun hk => ?_⟩
  · rw [ht', ht, List.append_assoc]
  · rw [hc' hk, hc hk, lastControlWrite_append]

theorem State.issues_memRead (s : State) (a : Addr) (n : Nat) (i : inSpace a n) (ha : ok ⟨a, n, .read⟩) :
    State.Issues ok tracked s (s.memRead a n i).2 := by
  obtain ⟨tx, hx, e⟩ := State.memRead_record s a n i
  have hne : tx.info ≠ txWrite regControl 1 := by simp [hx, txWrite]
  exact ⟨[tx], by simp [e], by simpa [hx] using ha, fun _ => by simp [e, lastControlWrite_other _ hne]⟩

theorem State.issues_memWrite (s : State) (a : Addr) (vs : List Byte) (i : inSpace a vs.length)
    (hc : tracked → a ≠ regControl) (ha : ok ⟨a, vs.length, .write⟩) :
    State.Issues ok tracked s (s.memWrite a vs i).2 := by
  obtain ⟨tx, m, hx, -, e⟩ := State.memWrite_record s a vs i
  refine ⟨[tx], by simp [e], by simpa [hx] using ha, fun ht => ?_⟩
  have hne : tx.info ≠ txWrite regControl 1 := fun h => hc ht (congrArg TxInfo.addr (hx.symm.trans h))
  simp [e, lastControlWrite_other _ hne]

theorem State.issues_writeControl (s : State) (v : Byte) (ha : ok ⟨regControl, 1, .write⟩) :
    State.Issues ok tracked s (s.writeControl v).2 := by
  obtain ⟨tx, hx, ht, hc⟩ := State.writeControl_record s v
  exact ⟨[tx], ht, by simpa [hx, txWrite] using ha, fun _ => hc⟩

/-- A run issues what `ok` allows, and tracks the cache outside INIT where no plain write starts at Control. -/
theorem Run.issues {init sep : Bool} (h : Run ok init sep s t) (hk : tracked → init = false ∧ sep = true) :
    State.Issues ok tracked s t := by
  induction h with
  | done => exact .of_eq rfl fun _ => rfl
  | read s t a n i ha _ ih => exact (State.issues_memRead s a n i ha).trans ih
  | write s t a vs i hc ha _ ih => exact (State.issues_memWrite s a vs i (fun ht => hc (hk ht).2) ha).trans ih
  | control s t v ha _ ih => exact (State.issues_writeControl s v ha).trans ih
  | emit _ _ _ _ ih | result _ _ _ _ ih => exact ih
  | load _ _ _ hi _ ih | finish _ _ _ _ hi _ ih =>
    refine .trans ?_ ih
    exact .of_eq rfl fun ht => Bool.noConfusion ((hk ht).1.symm.trans hi)

end issues

/-! ## Operations and passes -/

/-- SHUTDOWN issues a pass's transactions at most, and no Control write (43_device.md R214). -/
theorem State.issues_teardown (s : State) : State.Issues (· ∈ passTransactions) True s s.teardown := by
  obtain ⟨n, l, u, hu, e⟩ := State.teardown_run s
  rw [e]
  exact hu.issues fun _ => ⟨rfl, rfl⟩

/-- Every operation issues its listed transactions only, and every one but INIT keeps the cache with them. -/
theorem exec_issues {i : Instr} {s t : State} (h : exec i s = .next t) :
    State.Issues (· ∈ listedTransactions s.params i) (i ≠ .init) s t := by
  rcases exec_cases h with ⟨r, rfl⟩ | ⟨-, rfl⟩ | ⟨-, -, u, rfl, hu⟩ | ⟨-, rfl, -, rfl⟩
  · exact .of_eq rfl fun _ => rfl
  · exact .of_eq rfl fun _ => rfl
  · have hr := hu (decide (i ≠ .init)) fun hs hi => absurd hi (of_decide_eq_true hs)
    exact hr.issues fun hi => ⟨decide_eq_false hi, decide_eq_true hi⟩
  · obtain ⟨new, ht, ha, hc⟩ := State.issues_teardown s
    exact ⟨new, ht, ha, fun _ => hc trivial⟩

/-- Settles O50: the body of every operation but INIT tracks the cache. -/
theorem cacheFollowsControlWrites : Obligations.CacheFollowsControlWrites := by
  intro i s t hi h
  obtain ⟨new, ht, -, hc⟩ := exec_issues h
  exact ⟨new, ht, hc hi⟩

theorem State.issues_drain (s : State) : State.Issues (· ∈ passTransactions) True s s.drain := by
  rcases State.drain_run s with ⟨l, e⟩ | ⟨-, -, u, hu, e⟩
  · rw [e]
    exact .of_eq rfl fun _ => rfl
  · rw [e]
    exact hu.issues fun _ => ⟨rfl, rfl⟩

/-- Settles O51: operations and passes are runs of the transactions R62 lists, and the steps of other agents leave the
trace alone. -/
theorem onlyListedTransactionsAreIssued : Obligations.OnlyListedTransactionsAreIssued := by
  refine ⟨fun i s t h => ?_, fun s => ?_, fun s e => State.envSteps_trace s [e]⟩
  · obtain ⟨new, ht, ha, -⟩ := exec_issues h
    exact ⟨new, ht, ha⟩
  · obtain ⟨new, ht, ha, -⟩ := State.issues_drain s
    exact ⟨new, ht, ha⟩

end Sys2Proof.Machine
end

section
/-! PROOFS. With no other agent stepping in between, the registers after an operation are what its transactions make of
the registers before (20_memory.md R65 to R69, 42_alarm.md R187, 60_exceptions.md R246). -/

namespace Sys2Proof.Machine

/-- If the next `n` transactions are undisturbed, the trace has grown from `s` to `t` by transactions that replay what
became of the registers. -/
def State.Replayed (n : Nat) (s t : State) : Prop :=
  s.undisturbed n → ∃ new, t.trace = s.trace ++ new ∧ Replays s.regs new t.regs

section rules

variable {n : Nat} {s t u : State}

/-- The trace and the registers are the same. -/
theorem State.Replayed.of_eq (ht : t.trace = s.trace) (hr : t.regs = s.regs) : State.Replayed n s t :=
  fun _ => ⟨[], by simp [ht], hr ▸ .done _⟩

theorem State.Replayed.mono {m : Nat} (h : State.Replayed m s t) (hm : m ≤ n) : State.Replayed n s t :=
  fun hu => h (State.undisturbed_mono hu hm)

/-- A replayed transaction in front of other replayed ones. -/
theorem Replays.cons {m m' m'' : Memory} {tx : Transaction} {rest : List Transaction} (h : Replays m [tx] m')
    (k : Replays m' rest m'') : Replays m (tx :: rest) m'' := by
  cases h with
  | read _ _ _ _ hd h => cases h; exact .read _ _ _ _ hd k
  | stored _ _ _ _ hd hs h => cases h; exact .stored _ _ _ _ hd hs k
  | failed _ _ _ _ ks hd hs h => cases h; exact .failed _ _ _ _ ks hd hs k

/-- One undisturbed transaction, then the rest. -/
theorem State.Replayed.cons {tx : Transaction} {m : Memory} (hr : Replays s.interleave.regs [tx] m)
    (h : State.Replayed n ((s.interleave.setRegs m).record tx) t) : State.Replayed (n + 1) s t := by
  intro hu
  obtain ⟨more, ht, hm⟩ := h fun k hk => by simpa using hu (k + 1) (by omega)
  rw [State.interleave_calm s (hu 0 (by omega))] at hr
  exact ⟨tx :: more, by simp [ht], hr.cons hm⟩

theorem State.Replayed.memRead {a : Addr} {len : Nat} {i : inSpace a len}
    (h : State.Replayed n (s.memRead a len i).2 t) : State.Replayed (n + 1) s t := by
  obtain ⟨tx, hx, e⟩ := State.memRead_record s a len i
  rw [e] at h
  exact .cons (m := s.interleave.regs) (.read _ _ _ _ (by rw [hx]) (.done _)) h

theorem State.Replayed.memWrite {a : Addr} {vs : List Byte} {i : inSpace a vs.length}
    (h : State.Replayed n (s.memWrite a vs i).2 t) : State.Replayed (n + 1) s t := by
  obtain ⟨tx, m, -, hm, e⟩ := State.memWrite_record s a vs i
  rw [e] at h
  exact .cons hm h

/-- What a Control write does beside its transaction is no register's. -/
theorem State.Replayed.writeControl {v : Byte} (h : State.Replayed n (s.writeControl v).2 t) :
    State.Replayed (n + 1) s t := by
  refine .memWrite (a := regControl) (vs := [v]) (i := inSpace_byte _) ?_
  rcases State.writeControl_snd s v with e | e <;> rw [e] at h <;> exact h

theorem State.Replayed.readThen {a : Addr} {len : Nat} {i : inSpace a len} {k : List Byte → State → State}
    (hk : ∀ bs s', State.Replayed n s' (k bs s')) : State.Replayed (n + 1) s (s.readThen a len i k) := by
  refine .memRead (a := a) (len := len) (i := i) ?_
  rcases State.readThen_cases s a len i k with ⟨bs, s', h, e⟩ | ⟨s', h, e⟩
  · rw [e, h]; exact hk bs s'
  · rw [e, h]; exact .of_eq rfl rfl

theorem State.Replayed.writeThen {a : Addr} {vs : List Byte} {i : inSpace a vs.length} {k : State → State}
    (hk : ∀ s', State.Replayed n s' (k s')) : State.Replayed (n + 1) s (s.writeThen a vs i k) := by
  refine .memWrite (a := a) (vs := vs) (i := i) ?_
  rcases State.writeThen_cases s a vs i k with ⟨s', h, e⟩ | ⟨s', h, e⟩
  · rw [e, h]; exact hk s'
  · rw [e, h]; exact .of_eq rfl rfl

theorem State.Replayed.writeControlThen {v : Byte} {k : State → State} (hk : ∀ s', State.Replayed n s' (k s')) :
    State.Replayed (n + 1) s (s.writeControlThen v k) := by
  refine .writeControl (v := v) ?_
  rcases State.writeControlThen_cases s v k with ⟨s', h, e⟩ | ⟨s', h, e⟩
  · rw [e, h]; exact hk s'
  · rw [e, h]; exact .of_eq rfl rfl

theorem State.Replayed.clearAlarmFlagThen {k : State → State} (hk : ∀ s', State.Replayed n s' (k s')) :
    State.Replayed (n + 2) s (s.clearAlarmFlagThen k) :=
  .readThen fun _ _ => .writeThen hk

end rules

/-! ## The bodies, each with the number of its transactions -/

section bodies

variable (s : State)

theorem State.replayed_getTimeBody : State.Replayed 1 s s.getTimeBody :=
  .readThen fun _ _ => .of_eq rfl rfl

theorem State.replayed_getAlarmBody : State.Replayed 2 s s.getAlarmBody :=
  .readThen fun _ _ => .readThen fun _ _ => .of_eq rfl rfl

theorem State.replayed_clearStop (r : Result) : State.Replayed 2 s (s.clearStop.2.setResult r) := by
  unfold State.clearStop
  refine .memRead (a := regControl) (len := 1) (i := inSpace_byte _) ?_
  rcases s.memRead regControl 1 (inSpace_byte _) with ⟨_ | bs, s'⟩
  · exact .of_eq rfl rfl
  · refine .writeControl (v := bclr (bs.getD 0 0) maskSTOP) ?_
    dsimp only
    rcases s'.writeControl (bclr (bs.getD 0 0) maskSTOP) with ⟨_ | _, s''⟩ <;> exact .of_eq rfl rfl

theorem State.replayed_setTimeBody (t : CalendarTime) : State.Replayed 5 s (State.setTimeBody t s) :=
  .readThen fun _ _ => .writeControlThen fun _ =>
    .memWrite (i := timeBlock_inSpace) (State.replayed_clearStop _ _)

theorem State.replayed_programAlarm (a : AlarmSpec) : State.Replayed 7 s (State.programAlarm a s) := by
  refine .writeThen fun s => .readThen fun _ s => .writeThen fun s => .writeThen fun s => .clearAlarmFlagThen fun s => ?_
  unfold State.enableAlarm
  split
  · exact .writeControlThen fun _ => .of_eq rfl rfl
  · exact .of_eq rfl rfl

theorem State.replayed_setAlarmBody (a : AlarmSpec) : State.Replayed 8 s (State.setAlarmBody a s) := by
  rw [State.setAlarmBody_eq]
  unfold State.disableAlarmThen
  split
  · exact .writeControlThen fun s => s.replayed_programAlarm a
  · exact (s.replayed_programAlarm a).mono (by omega)

theorem State.replayed_alarmEnBody (e : Bool) : State.Replayed 3 s (State.alarmEnBody e s) := by
  refine .clearAlarmFlagThen fun s => ?_
  split
  · exact .of_eq rfl rfl
  · exact .writeControlThen fun _ => .of_eq rfl rfl

theorem State.replayed_inspectFlag (flag : Byte) : State.Replayed 2 s (s.inspectFlag flag) := by
  unfold State.inspectFlag
  dsimp only
  split
  · exact State.Replayed.writeThen (s := s.emit _) fun _ => .writeControlThen fun _ => .of_eq rfl rfl
  · exact .of_eq rfl rfl

theorem State.replayed_initSequence : State.Replayed 6 s s.initSequence := by
  refine .writeThen fun s => .writeThen fun s => .readThen fun r s => ?_
  show State.Replayed 3 (s.setCache (initControl (r.getD 2 0))) _
  exact .writeThen fun s => s.replayed_inspectFlag _

theorem State.replayed_initBody : State.Replayed 6 s s.initBody := by
  have h := s.replayed_initSequence
  unfold State.initBody State.forgetCache
  split
  · exact h
  · exact h

theorem State.replayed_drainFlags : State.Replayed 2 s s.drainFlags := by
  unfold State.drainFlags
  refine .memRead (a := regFlag) (len := 1) (i := inSpace_byte _) ?_
  rcases s.memRead regFlag 1 (inSpace_byte _) with ⟨_ | bs, s'⟩
  · exact .of_eq rfl rfl
  · refine State.Replayed.memWrite (s := s'.emit (drainedEvents (bs.getD 0 0))) (a := regFlag)
      (vs := [drainedFlag (bs.getD 0 0)]) (i := inSpace_byte _) ?_
    dsimp only
    rcases (s'.emit (drainedEvents (bs.getD 0 0))).memWrite regFlag [drainedFlag (bs.getD 0 0)]
        (inSpace_byte _) with ⟨_ | _, s''⟩ <;> exact .of_eq rfl rfl

/-- SHUTDOWN uses up one choice for the task it settles, and a pass's two if it awaits it (43_device.md R214). -/
theorem State.replayed_teardown : State.Replayed 3 s s.teardown := by
  rcases State.teardown_cases s with ⟨-, e⟩ | ⟨-, -, e⟩ | ⟨-, -, e⟩
  · rw [e]; exact .of_eq rfl rfl
  · rw [e, State.advanceChoice_eq_skip]; exact .of_eq rfl rfl
  · rw [e, State.advanceChoice_eq_skip]
    intro hu
    refine State.replayed_drainFlags (((s.setShutdown.setLock .free).skipChoices 1).setLock .deferred) fun k hk => ?_
    have := hu (1 + k) (by omega)
    simpa using this

end bodies

/-! ## Operations -/

/-- With the lock free the body runs, else nothing does. -/
theorem State.replayed_locked {s t : State} {n : Nat} {i : Instr} {body : State → State}
    (hb : ∀ s, State.Replayed n s (body s)) (ht : s.locked i body = .next t) : State.Replayed n s t := by
  rcases State.locked_cases s i body with ⟨-, e⟩ | ⟨-, e⟩
  · rw [e] at ht; cases ht; exact hb (s.setLock .foreground)
  · rw [e] at ht; cases ht; exact .of_eq rfl rfl

/-- Every operation makes at most eight transactions, and they replay its registers. -/
theorem exec_replayed {i : Instr} {s t : State} (ht : exec i s = .next t) : State.Replayed 8 s t := by
  cases i with
  | bcd2bin _ | bin2bcd _ | decode _ | encode _ | btst _ _ | bset _ _ | bclr _ _ => cases ht; exact .of_eq rfl rfl
  | getTime =>
    exact (State.replayed_locked State.replayed_getTimeBody (State.whenLive_next ht).2).mono (by omega)
  | setTime u =>
    obtain ⟨-, ht⟩ := State.whenLive_next ht
    split at ht
    · exact (State.replayed_locked (State.replayed_setTimeBody · u) ht).mono (by omega)
    · cases ht; exact .of_eq rfl rfl
  | getAlarm =>
    obtain ⟨-, ⟨-, ht⟩ | ⟨-, rfl⟩⟩ := State.whenAlarm_next ht
    · exact (State.replayed_locked State.replayed_getAlarmBody ht).mono (by omega)
    · exact .of_eq rfl rfl
  | setAlarm a =>
    obtain ⟨-, ⟨-, ht⟩ | ⟨-, rfl⟩⟩ := State.whenAlarm_next ht
    · split at ht
      · exact State.replayed_locked (State.replayed_setAlarmBody · a) ht
      · cases ht; exact .of_eq rfl rfl
    · exact .of_eq rfl rfl
  | alarmEn e =>
    obtain ⟨-, ⟨-, ht⟩ | ⟨-, rfl⟩⟩ := State.whenAlarm_next ht
    · exact (State.replayed_locked (State.replayed_alarmEnBody · e) ht).mono (by omega)
    · exact .of_eq rfl rfl
  | init =>
    exact (State.replayed_locked State.replayed_initBody (State.whenFresh_next ht).2).mono (by omega)
  | shutdown =>
    rcases exec_cases ht with ⟨r, rfl⟩ | ⟨-, rfl⟩ | ⟨-, hn, -⟩ | ⟨-, -, -, rfl⟩
    · exact .of_eq rfl rfl
    · exact .of_eq rfl rfl
    · exact absurd rfl hn
    · exact s.replayed_teardown.mono (by omega)

/-- Settles O55: each body's transactions, one by one, replay what they do to the registers. -/
theorem registersAreWhatTheTraceStores : Obligations.RegistersAreWhatTheTraceStores :=
  fun _ _ _ hu ht => exec_replayed ht hu

end Sys2Proof.Machine
end

section
/-! PROOFS. The lock (20_memory.md R75, R76), and what a step makes of the next line of the schedule (R81). -/

namespace Sys2Proof.Machine

/-! ## The next line of the schedule -/

theorem step_of_issue {s : State} {f : Frame} {rest : List Input} {i : Instr} (h : s.inputs = .issue f :: rest)
    (hd : decodeFrame f = .ok i) : step s = exec i (s.setInputs rest) := by
  simp [step, State.nextInput, State.advanceInput, h, runFrame, hd]

theorem step_of_call {s : State} {i : Instr} {rest : List Input} (h : s.inputs = .call i :: rest) :
    step s = exec i (s.setInputs rest) := by
  simp [step, State.nextInput, State.advanceInput, h]

theorem step_of_turn {s : State} {t : Turn} {rest : List Input} (h : s.inputs = .turn t :: rest) :
    step s = .next ((s.setInputs rest).takeTurn t) := by
  simp [step, State.nextInput, State.advanceInput, h]

/-- A row's word holds the operation that its frame decodes to (30_encoding.md R104). -/
theorem decodeFrame_of_tableWord {nbits w : Nat} {i : Instr} (h : decodeTableWord nbits w = some i) :
    decodeFrame (BitVec.ofNat 64 (w % 2 ^ nbits)) = .ok i := by
  unfold decodeTableWord at h
  split at h
  · next hd => rw [hd, Option.some.inj h]
  · cases h

/-- Settles O6: one reading rule per kind of line; the line that `withFetchWord` places is the one taken. -/
theorem stepRunsTheDecodedOperation : Obligations.StepRunsTheDecodedOperation := by
  refine ⟨fun s f rest i h hd => step_of_issue h hd, fun s nbits w i hd => ?_, fun s i rest h => step_of_call h,
    fun s t rest h => step_of_turn h⟩
  exact step_of_issue (s := s.withFetchWord nbits w) rfl (decodeFrame_of_tableWord hd)

/-! ## The lock -/

/-- An admitted operation whose body is a run holds the lock from its body's start to its end, or waits. -/
theorem exec_holds_or_waits {ok : TxInfo → Prop} {init sep : Bool} {i : Instr} {s : State} {body : State → State}
    (he : exec i s = s.locked i body)
    (hr : Run ok init sep (s.setLock .foreground) (body (s.setLock .foreground))) :
    (s.lock = .free →
      exec i s = .next { body { s with lock := .foreground } with lock := .free }
      ∧ (body { s with lock := .foreground }).lock = .foreground
      ∧ (body { s with lock := .foreground }).inputs = s.inputs)
    ∧ (s.lock ≠ .free → exec i s = .next { s with inputs := .call i :: s.inputs }) := by
  obtain ⟨-, -, hlock, -, hinputs⟩ := State.shell_eq_iff.mp hr.shell_eq
  refine ⟨fun hl => ⟨?_, hlock, hinputs⟩, fun hl => ?_⟩
  · rw [he, State.locked_free hl]; rfl
  · rcases State.locked_cases s i body with ⟨hf, -⟩ | ⟨-, e⟩
    · exact absurd hf hl
    · exact he.trans e

theorem State.maskLine_lock (s : State) : s.maskLine.lock = s.lock := by
  unfold State.maskLine
  split <;> rfl

theorem State.whenNotDestroyed_of_ne {s : State} (h : s.phase ≠ .destroyed) (go : Host.Outcome State Fault Refusal) :
    s.whenNotDestroyed go = go := by
  unfold State.whenNotDestroyed
  split
  · rfl
  · rfl
  · next hp => exact absurd hp h

/-- SHUTDOWN tears down with the lock free, or waits for it (43_device.md R214). -/
theorem exec_shutdown {s : State} (h : s.phase ≠ .destroyed) :
    exec .shutdown s = if s.lock = .free then .next s.teardown else .next (s.waitToIssue .shutdown) :=
  State.whenNotDestroyed_of_ne h _

/-- Whether the interrupt is taken does not depend on the lock (60_exceptions.md R254). -/
theorem State.takeInterrupt_setLock (s : State) (l : Lock) :
    (s.setLock l).takeInterrupt = s.takeInterrupt.setLock l := by
  have he : (s.setLock l).irqEnabled = s.irqEnabled := rfl
  unfold State.takeInterrupt
  rw [he]
  split <;> rfl

/-- A pass that is due runs under the lock, or stays due. -/
theorem step_drain {s : State} {rest : List Input} (hp : s.pstate = .handling) (hd : s.destroyed = false)
    (hi : s.inputs = .turn .drain :: rest) :
    step s = .next (if s.lock = .free then (s.setInputs rest).drainPass else s) := by
  rw [step_of_turn hi, State.takeTurn]
  rcases State.drain_cases (s.setInputs rest) with ⟨hn, -⟩ | ⟨-, -, hl, e⟩ | ⟨-, -, hl, e⟩
  · simp [hp, hd] at hn
  · rw [State.setInputs_lock] at hl
    rw [e, if_neg hl, State.setInputs_inputs, ← hi]; rfl
  · rw [State.setInputs_lock] at hl
    rw [e, if_pos hl]

/-- Settles O21: what runs under the lock is a run of transactions, which leaves the lock and the schedule alone. -/
theorem operationsHoldTheLockOrWaitForIt : Obligations.OperationsHoldTheLockOrWaitForIt := by
  refine ⟨fun i body s h => ?_, fun s hp => ⟨fun hl => ?_, fun hl => ?_⟩,
    fun s rest hp hd hi => ⟨fun hl => ?_, fun hl => ?_⟩, State.takeInterrupt_setLock⟩
  · rcases h with ⟨rfl, rfl, hp⟩ | ⟨⟨t, rfl, rfl, hv⟩, hp⟩ | ⟨⟨rfl, rfl⟩ | ⟨a, rfl, rfl, hv⟩ | ⟨e, rfl, rfl⟩, hp, hq⟩
      | ⟨rfl, rfl, hp⟩
    · exact exec_holds_or_waits (State.whenLive_live hp _) (getTimeBody_run s.params false _)
    · exact exec_holds_or_waits ((State.whenLive_live hp _).trans (if_pos hv)) (setTimeBody_run s.params false _ t)
    · exact exec_holds_or_waits (State.whenAlarm_live hp hq _) (getAlarmBody_run s.params false _)
    · exact exec_holds_or_waits ((State.whenAlarm_live hp hq _).trans (if_pos hv)) (setAlarmBody_run s.params false _ a)
    · exact exec_holds_or_waits (State.whenAlarm_live hp hq _) (alarmEnBody_run s.params false _ e)
    · exact exec_holds_or_waits (State.whenFresh_fresh hp _) (initBody_run s.params false _ (by simp) (by simp) rfl)
  · have he : exec .shutdown s = .next s.teardown := by rw [exec_shutdown hp, if_pos hl]
    exact ⟨State.maskLine_lock _, _, he, (exec_lock_inputs hl he).1, rfl⟩
  · rw [exec_shutdown hp, if_neg hl]; rfl
  · obtain ⟨-, -, hlock, -, hinputs⟩ :=
      State.shell_eq_iff.mp (drainFlags_run false ((s.setInputs rest).setLock .deferred)).shell_eq
    refine ⟨hlock, hinputs, ?_⟩
    rw [step_drain hp hd hi, if_pos hl]; rfl
  · rw [step_drain hp hd hi, if_neg hl]

end Sys2Proof.Machine
end

section
/-! PROOFS. The frames (30_encoding.md R100 to R111): operand bytes, the decoder opcode by opcode, decode and encode,
and the layout of the response. -/

namespace Sys2Proof

/-! ## Operand bytes -/

theorem byte_toNat_lt (b : Byte) : b.toNat < 256 := b.isLt

/-- A number below 256 is the value of its operand byte (R100). -/
theorem toNat_numberByte {n : Nat} (h : n < 256) : (numberByte n).toNat = n :=
  BitVec.toNat_ofNat n 8 ▸ Nat.mod_eq_of_lt h

theorem boolOperand_boolByte (b : Bool) : boolOperand (boolByte b) = b := by cases b <;> rfl

/-- A boolean operand is true for every byte but 0 (R102). -/
theorem boolOperand_eq_decide (b : Byte) : boolOperand b = decide (b ≠ 0) := by
  rw [decide_not, boolOperand, bne, beq_eq_decide]; rfl

theorem CalendarTime.fits_iff (t : CalendarTime) : t.fits = true ↔ t.second < 256 ∧ t.minute < 256 ∧ t.hour < 256
    ∧ t.weekday < 256 ∧ t.mday < 256 ∧ t.month < 256 ∧ t.year < 256 := by
  simp [CalendarTime.fits, and_assoc]

theorem AlarmSpec.fits_iff (a : AlarmSpec) : a.fits = true ↔ a.minute < 256 ∧ a.hour < 256 ∧ a.day < 256 := by
  simp [AlarmSpec.fits, and_assoc]

/-- Whatever bytes a calendar is read from, its fields fit one byte each. -/
theorem calendarOperand_fits (p0 p1 p2 p3 p4 p5 p6 : Byte) : (calendarOperand p0 p1 p2 p3 p4 p5 p6).fits = true :=
  (CalendarTime.fits_iff _).mpr ⟨byte_toNat_lt p0, byte_toNat_lt p1, byte_toNat_lt p2, byte_toNat_lt p3,
    byte_toNat_lt p4, byte_toNat_lt p5, byte_toNat_lt p6⟩

theorem calendarOperand_numberByte {t : CalendarTime} (h : t.fits = true) :
    calendarOperand (numberByte t.second) (numberByte t.minute) (numberByte t.hour) (numberByte t.weekday)
      (numberByte t.mday) (numberByte t.month) (numberByte t.year) = t := by
  obtain ⟨hs, hm, hh, hw, hd, hmo, hy⟩ := t.fits_iff.mp h
  simp only [calendarOperand, toNat_numberByte, hs, hm, hh, hw, hd, hmo, hy]

/-! ## The decoder, opcode by opcode (R101) -/

section opcodes

variable {f : Frame}

theorem decodeFrame_eq (f : Frame) : decodeFrame f = decodeOperation (frameByte f 0) (frameByte f 1) (frameByte f 2)
    (frameByte f 3) (frameByte f 4) (frameByte f 5) (frameByte f 6) (frameByte f 7) := rfl

theorem decodeFrame_bcd2bin (h : frameByte f 0 = 0x01#8) : decodeFrame f = .ok (.bcd2bin (frameByte f 1)) := by
  rw [decodeFrame_eq, h]; rfl

theorem decodeFrame_bin2bcd (h : frameByte f 0 = 0x02#8) : decodeFrame f = .ok (.bin2bcd (frameByte f 1).toNat) := by
  rw [decodeFrame_eq, h]; rfl

theorem decodeFrame_decode (h : frameByte f 0 = 0x03#8) : decodeFrame f = .ok (.decode ⟨frameByte f 1, frameByte f 2,
    frameByte f 3, frameByte f 4, frameByte f 5, frameByte f 6, frameByte f 7⟩) := by
  rw [decodeFrame_eq, h]; rfl

theorem decodeFrame_encode (h : frameByte f 0 = 0x04#8) : decodeFrame f = .ok (.encode (calendarOperand (frameByte f 1)
    (frameByte f 2) (frameByte f 3) (frameByte f 4) (frameByte f 5) (frameByte f 6) (frameByte f 7))) := by
  rw [decodeFrame_eq, h]; rfl

theorem decodeFrame_btst (h : frameByte f 0 = 0x08#8) :
    decodeFrame f = .ok (.btst (frameByte f 1) (frameByte f 2)) := by
  rw [decodeFrame_eq, h]; rfl

theorem decodeFrame_bset (h : frameByte f 0 = 0x09#8) :
    decodeFrame f = .ok (.bset (frameByte f 1) (frameByte f 2)) := by
  rw [decodeFrame_eq, h]; rfl

theorem decodeFrame_bclr (h : frameByte f 0 = 0x0A#8) :
    decodeFrame f = .ok (.bclr (frameByte f 1) (frameByte f 2)) := by
  rw [decodeFrame_eq, h]; rfl

theorem decodeFrame_getTime (h : frameByte f 0 = 0x10#8) : decodeFrame f = .ok .getTime := by
  rw [decodeFrame_eq, h]; rfl

theorem decodeFrame_setTime (h : frameByte f 0 = 0x11#8) : decodeFrame f = .ok (.setTime (calendarOperand
    (frameByte f 1) (frameByte f 2) (frameByte f 3) (frameByte f 4) (frameByte f 5) (frameByte f 6)
    (frameByte f 7))) := by
  rw [decodeFrame_eq, h]; rfl

theorem decodeFrame_getAlarm (h : frameByte f 0 = 0x12#8) : decodeFrame f = .ok .getAlarm := by
  rw [decodeFrame_eq, h]; rfl

theorem decodeFrame_setAlarm (h : frameByte f 0 = 0x13#8) : decodeFrame f = .ok (.setAlarm ⟨(frameByte f 1).toNat,
    (frameByte f 2).toNat, (frameByte f 3).toNat, boolOperand (frameByte f 4)⟩) := by
  rw [decodeFrame_eq, h]; rfl

theorem decodeFrame_alarmEn (h : frameByte f 0 = 0x14#8) :
    decodeFrame f = .ok (.alarmEn (boolOperand (frameByte f 1))) := by
  rw [decodeFrame_eq, h]; rfl

theorem decodeFrame_init (h : frameByte f 0 = 0x15#8) : decodeFrame f = .ok .init := by
  rw [decodeFrame_eq, h]; rfl

theorem decodeFrame_shutdown (h : frameByte f 0 = 0x16#8) : decodeFrame f = .ok .shutdown := by
  rw [decodeFrame_eq, h]; rfl

/-- A frame with the opcode of an operation decodes to an operation with that opcode, each operand one byte. -/
theorem decodeFrame_of_opcode {i : Instr} (h : i.opcode = frameByte f 0) :
    ∃ j, decodeFrame f = .ok j ∧ j.opcode = frameByte f 0 ∧ j.wellFormed = true := by
  cases i with
  | bcd2bin b => exact ⟨_, decodeFrame_bcd2bin h.symm, h, rfl⟩
  | bin2bcd v => exact ⟨_, decodeFrame_bin2bcd h.symm, h, decide_eq_true (byte_toNat_lt _)⟩
  | decode r => exact ⟨_, decodeFrame_decode h.symm, h, rfl⟩
  | encode t => exact ⟨_, decodeFrame_encode h.symm, h, calendarOperand_fits ..⟩
  | btst b m => exact ⟨_, decodeFrame_btst h.symm, h, rfl⟩
  | bset b m => exact ⟨_, decodeFrame_bset h.symm, h, rfl⟩
  | bclr b m => exact ⟨_, decodeFrame_bclr h.symm, h, rfl⟩
  | getTime => exact ⟨_, decodeFrame_getTime h.symm, h, rfl⟩
  | setTime t => exact ⟨_, decodeFrame_setTime h.symm, h, calendarOperand_fits ..⟩
  | getAlarm => exact ⟨_, decodeFrame_getAlarm h.symm, h, rfl⟩
  | setAlarm a =>
    exact ⟨_, decodeFrame_setAlarm h.symm, h,
      (AlarmSpec.fits_iff _).mpr ⟨byte_toNat_lt _, byte_toNat_lt _, byte_toNat_lt _⟩⟩
  | alarmEn e => exact ⟨_, decodeFrame_alarmEn h.symm, h, rfl⟩
  | init => exact ⟨_, decodeFrame_init h.symm, h, rfl⟩
  | shutdown => exact ⟨_, decodeFrame_shutdown h.symm, h, rfl⟩

/-- A byte that is no opcode is answered by name, whatever the operand bytes (R104). -/
theorem decodeFrame_of_unknown (h : ∀ i : Instr, i.opcode ≠ frameByte f 0) :
    decodeFrame f = .error (.unrecognizedOperation (frameByte f 0)) := by
  have named (i : Instr) {r : Except DecodeError Instr} (e : (frameByte f 0).toNat = i.opcode.toNat) :
      r = .error (.unrecognizedOperation (frameByte f 0)) := absurd (BitVec.eq_of_toNat_eq e.symm) (h i)
  rw [decodeFrame_eq, decodeOperation]
  split
  · exact named (.bcd2bin 0) ‹_›
  · exact named (.bin2bcd 0) ‹_›
  · exact named (.decode default) ‹_›
  · exact named (.encode default) ‹_›
  · exact named (.btst 0 0) ‹_›
  · exact named (.bset 0 0) ‹_›
  · exact named (.bclr 0 0) ‹_›
  · exact named .getTime ‹_›
  · exact named (.setTime default) ‹_›
  · exact named .getAlarm ‹_›
  · exact named (.setAlarm default) ‹_›
  · exact named (.alarmEn false) ‹_›
  · exact named .init ‹_›
  · exact named .shutdown ‹_›
  · rfl

/-- What a frame can decode to: an operation with opcode `c0` and one-byte operands, or nothing where `c0` is no
opcode. -/
theorem decodeFrame_cases (f : Frame) :
    (∃ j, decodeFrame f = .ok j ∧ j.opcode = frameByte f 0 ∧ j.wellFormed = true)
      ∨ (∀ i : Instr, i.opcode ≠ frameByte f 0)
        ∧ decodeFrame f = .error (.unrecognizedOperation (frameByte f 0)) := by
  by_cases h : ∃ i : Instr, i.opcode = frameByte f 0
  · obtain ⟨i, hi⟩ := h
    exact .inl (decodeFrame_of_opcode hi)
  · rw [not_exists] at h
    exact .inr ⟨h, decodeFrame_of_unknown h⟩

theorem decodeFrame_ok_iff (f : Frame) : (∃ i, decodeFrame f = .ok i) ↔ ∃ i : Instr, i.opcode = frameByte f 0 := by
  rcases decodeFrame_cases f with ⟨j, hd, hop, -⟩ | ⟨hno, he⟩
  · exact ⟨fun _ => ⟨j, hop⟩, fun _ => ⟨j, hd⟩⟩
  · exact ⟨fun ⟨i, hi⟩ => (nomatch he.symm.trans hi), fun ⟨i, hi⟩ => absurd hi (hno i)⟩

theorem opcode_wellFormed_of_decodeFrame {i : Instr} (h : decodeFrame f = .ok i) :
    i.opcode = frameByte f 0 ∧ i.wellFormed = true := by
  rcases decodeFrame_cases f with ⟨j, hd, hop, hwf⟩ | ⟨-, he⟩
  · cases hd.symm.trans h
    exact ⟨hop, hwf⟩
  · cases he.symm.trans h

end opcodes

/-! ## Decode after encode -/

@[simp] theorem decodeFrame_frameOf (c0 c1 c2 c3 c4 c5 c6 c7 : Byte) :
    decodeFrame (frameOf c0 c1 c2 c3 c4 c5 c6 c7) = decodeOperation c0 c1 c2 c3 c4 c5 c6 c7 := by
  simp [decodeFrame_eq]

theorem decodeFrame_calendarFrame (op : Byte) {t : CalendarTime} (h : t.fits = true)
    (make : CalendarTime → Instr) (hop : ∀ p0 p1 p2 p3 p4 p5 p6,
      decodeOperation op p0 p1 p2 p3 p4 p5 p6 = .ok (make (calendarOperand p0 p1 p2 p3 p4 p5 p6))) :
    decodeFrame (encodeFrame.calendarFrame op t) = .ok (make t) := by
  rw [encodeFrame.calendarFrame, decodeFrame_frameOf, hop, calendarOperand_numberByte h]

theorem decodeFrame_encodeFrame (i : Instr) (h : i.wellFormed = true) : decodeFrame (encodeFrame i) = .ok i := by
  cases i with
  | bcd2bin b => exact decodeFrame_frameOf ..
  | bin2bcd v =>
    calc decodeFrame (encodeFrame (.bin2bcd v))
      _ = .ok (.bin2bcd (numberByte v).toNat) := decodeFrame_frameOf ..
      _ = .ok (.bin2bcd v) := by rw [toNat_numberByte (of_decide_eq_true h)]
  | decode r => exact decodeFrame_frameOf ..
  | encode t => exact decodeFrame_calendarFrame _ h .encode fun _ _ _ _ _ _ _ => rfl
  | btst b m => exact decodeFrame_frameOf ..
  | bset b m => exact decodeFrame_frameOf ..
  | bclr b m => exact decodeFrame_frameOf ..
  | getTime => exact decodeFrame_frameOf ..
  | setTime t => exact decodeFrame_calendarFrame _ h .setTime fun _ _ _ _ _ _ _ => rfl
  | getAlarm => exact decodeFrame_frameOf ..
  | setAlarm a =>
    obtain ⟨hm, hh, hd⟩ := a.fits_iff.mp h
    calc decodeFrame (encodeFrame (.setAlarm a))
      _ = .ok (.setAlarm ⟨(numberByte a.minute).toNat, (numberByte a.hour).toNat, (numberByte a.day).toNat,
            boolOperand (boolByte a.enabled)⟩) := decodeFrame_frameOf ..
      _ = .ok (.setAlarm a) := by
        rw [toNat_numberByte hm, toNat_numberByte hh, toNat_numberByte hd, boolOperand_boolByte]
  | alarmEn e =>
    calc decodeFrame (encodeFrame (.alarmEn e))
      _ = .ok (.alarmEn (boolOperand (boolByte e))) := decodeFrame_frameOf ..
      _ = .ok (.alarmEn e) := by rw [boolOperand_boolByte]
  | init => exact decodeFrame_frameOf ..
  | shutdown => exact decodeFrame_frameOf ..

/-- A row of R111: the frame's value and bytes are computed, and it decodes by the round trip. -/
theorem worked_encoding {i : Instr} {f : Frame} {bs : List Byte} (hf : encodeFrame i = f) (hb : frameBytes f = bs)
    (h : i.wellFormed = true) : encodeFrame i = f ∧ frameBytes f = bs ∧ decodeFrame f = .ok i :=
  ⟨hf, hb, hf ▸ decodeFrame_encodeFrame i h⟩

/-- Frames that agree on all eight bytes decode alike. -/
theorem decodeFrame_congr {f g : Frame} (h : ∀ k ≤ 7, frameByte f k = frameByte g k) :
    decodeFrame f = decodeFrame g := by
  rw [decodeFrame_eq, decodeFrame_eq, h 0 (by decide), h 1 (by decide), h 2 (by decide), h 3 (by decide),
    h 4 (by decide), h 5 (by decide), h 6 (by decide), h 7 (by decide)]

/-- The frame with `c0` and the bytes of `bs` after it, 0 where `bs` has none. -/
def paddedFrame (c0 : Byte) (bs : List Byte) : Frame :=
  frameOf c0 (bs.getD 0 0) (bs.getD 1 0) (bs.getD 2 0) (bs.getD 3 0) (bs.getD 4 0) (bs.getD 5 0) (bs.getD 6 0)

@[simp] theorem frameByte_paddedFrame_zero (c0 : Byte) (bs : List Byte) : frameByte (paddedFrame c0 bs) 0 = c0 :=
  frameByte_frameOf_0 ..

theorem frameByte_paddedFrame_succ (c0 : Byte) (bs : List Byte) {k : Nat} (h : k < 7) :
    frameByte (paddedFrame c0 bs) (k + 1) = bs.getD k 0 := by
  interval_cases k
  · exact frameByte_frameOf_1 ..
  · exact frameByte_frameOf_2 ..
  · exact frameByte_frameOf_3 ..
  · exact frameByte_frameOf_4 ..
  · exact frameByte_frameOf_5 ..
  · exact frameByte_frameOf_6 ..
  · exact frameByte_frameOf_7 ..

end Sys2Proof

namespace Sys2Proof.Machine

/-- Two frames with the opcode of `i` that agree on the operand bytes it uses decode alike (30_encoding.md R103). -/
theorem decodeFrame_congr_of_opcode {f g : Frame} (i : Instr) (hf : frameByte f 0 = i.opcode)
    (h : ∀ k ≤ operandCount i.opcode, frameByte f k = frameByte g k) : decodeFrame f = decodeFrame g := by
  have hg : frameByte g 0 = i.opcode := (h 0 (Nat.zero_le _)).symm.trans hf
  cases i with
  | bcd2bin b => rw [decodeFrame_bcd2bin hf, decodeFrame_bcd2bin hg, h 1 (by decide : 1 ≤ 1)]
  | bin2bcd v => rw [decodeFrame_bin2bcd hf, decodeFrame_bin2bcd hg, h 1 (by decide : 1 ≤ 1)]
  | decode r => exact decodeFrame_congr h
  | encode t => exact decodeFrame_congr h
  | btst b m => rw [decodeFrame_btst hf, decodeFrame_btst hg, h 1 (by decide : 1 ≤ 2), h 2 (by decide : 2 ≤ 2)]
  | bset b m => rw [decodeFrame_bset hf, decodeFrame_bset hg, h 1 (by decide : 1 ≤ 2), h 2 (by decide : 2 ≤ 2)]
  | bclr b m => rw [decodeFrame_bclr hf, decodeFrame_bclr hg, h 1 (by decide : 1 ≤ 2), h 2 (by decide : 2 ≤ 2)]
  | getTime => rw [decodeFrame_getTime hf, decodeFrame_getTime hg]
  | setTime t => exact decodeFrame_congr h
  | getAlarm => rw [decodeFrame_getAlarm hf, decodeFrame_getAlarm hg]
  | setAlarm a =>
    rw [decodeFrame_setAlarm hf, decodeFrame_setAlarm hg, h 1 (by decide : 1 ≤ 4), h 2 (by decide : 2 ≤ 4),
      h 3 (by decide : 3 ≤ 4), h 4 (by decide : 4 ≤ 4)]
  | alarmEn e => rw [decodeFrame_alarmEn hf, decodeFrame_alarmEn hg, h 1 (by decide : 1 ≤ 1)]
  | init => rw [decodeFrame_init hf, decodeFrame_init hg]
  | shutdown => rw [decodeFrame_shutdown hf, decodeFrame_shutdown hg]

/-- Where `c0` is no opcode, both frames are answered by `c0` alone. -/
theorem decodeFrame_congr_of_used {f g : Frame}
    (h : ∀ k ≤ operandCount (frameByte f 0), frameByte f k = frameByte g k) : decodeFrame f = decodeFrame g := by
  rcases decodeFrame_cases f with ⟨i, -, hop, -⟩ | ⟨hno, he⟩
  · exact decodeFrame_congr_of_opcode i hop.symm (hop.symm ▸ h)
  · have h0 : frameByte f 0 = frameByte g 0 := h 0 (Nat.zero_le _)
    rw [he, h0, decodeFrame_of_unknown (h0 ▸ hno)]

/-- The response is the status and the result bytes, padded with zeros (30_encoding.md R105). -/
theorem responseFrame_eq (r : Result) : responseFrame r = paddedFrame (statusByte r) (resultBytes r) := by
  cases r with
  | ok v => cases v <;> rfl
  | error e => rfl

/-- Settles O1, by the round trip of each operation. -/
theorem decodeEncodeRoundTrip : Obligations.DecodeEncodeRoundTrip := decodeFrame_encodeFrame

/-- Settles O3: `c0` alone decides between an operation and an error, and the operation reads the bytes it uses. -/
theorem decodeIgnoresUnusedOperandBytes : Obligations.DecodeIgnoresUnusedOperandBytes :=
  ⟨decodeFrame_ok_iff, fun _ _ => decodeFrame_congr_of_used, fun _ _ => opcode_wellFormed_of_decodeFrame⟩

/-- Settles O2: values and bytes are computed, and the decoding follows from the round trip. -/
theorem workedEncodingsAgree : Obligations.WorkedEncodingsAgree :=
  ⟨worked_encoding (by decide) (by decide) (by decide), worked_encoding (by decide) (by decide) (by decide),
    worked_encoding (by decide) (by decide) (by decide), worked_encoding (by decide) (by decide) (by decide),
    worked_encoding (by decide) (by decide) (by decide)⟩

/-- Settles O4, by the decoder's equation for each opcode. -/
theorem deviceFramesCarryTheirOperands : Obligations.DeviceFramesCarryTheirOperands := by
  intro f
  refine ⟨decodeFrame_getTime, decodeFrame_setTime, decodeFrame_getAlarm, fun h => ?_, fun h => ?_, decodeFrame_init,
    decodeFrame_shutdown⟩
  · rw [decodeFrame_setAlarm h, boolOperand_eq_decide]
  · rw [decodeFrame_alarmEn h, boolOperand_eq_decide]

/-- Settles O7: the response is a padded frame, whose bytes are known. -/
theorem responseFrameLayout : Obligations.ResponseFrameLayout := by
  intro r
  rw [responseFrame_eq]
  refine ⟨?_, fun k hk => frameByte_paddedFrame_succ _ _ hk⟩
  rw [frameByte_paddedFrame_zero]
  rcases r with v | (_ | _ | _ | _) <;> rfl

end Sys2Proof.Machine
end

section
/-! PROOFS. TimeCodec (40_timecodec.md): the two BCD conversions and their inverse laws, the calendar rules, and DECODE
and ENCODE of an image. -/

namespace Sys2Proof.Machine

/-! ## BCD bytes (R131, R132) -/

theorem bcd2bin_eq (b : Byte) : bcd2bin b = 10 * (b.toNat / 16) + b.toNat % 16 := by
  have hb := byte_toNat_lt b
  simp only [bcd2bin, BitVec.extractLsb'_toNat, Nat.shiftRight_eq_div_pow]
  omega

theorem bcd2bin_le (b : Byte) : bcd2bin b ≤ 165 := by
  have hb := byte_toNat_lt b
  rw [bcd2bin_eq]
  omega

/-- Joining the nibbles by "or" is adding them, for the low one fits in four bits. -/
theorem bin2bcd_eq (v : Nat) : bin2bcd v = BitVec.ofNat 8 (16 * (v % 100 / 10) + v % 100 % 10) := by
  have hlow : v % 100 % 10 < 2 ^ 4 := by omega
  rw [bin2bcd, ← Nat.shiftLeft_add_eq_or_of_lt hlow, Nat.shiftLeft_eq, Nat.mul_comm]

theorem toNat_bin2bcd (v : Nat) : (bin2bcd v).toNat = 16 * (v % 100 / 10) + v % 100 % 10 := by
  rw [bin2bcd_eq, BitVec.toNat_ofNat]
  exact Nat.mod_eq_of_lt (by omega)

theorem bin2bcd_mod (v : Nat) : bin2bcd (v % 100) = bin2bcd v := by
  rw [bin2bcd_eq, bin2bcd_eq, Nat.mod_mod]

theorem bcd2bin_bin2bcd {v : Nat} (h : v < 100) : bcd2bin (bin2bcd v) = v := by
  rw [bcd2bin_eq, toNat_bin2bcd]
  omega

/-- The other inverse law holds on the bytes of two decimal nibbles. -/
theorem bin2bcd_bcd2bin {b : Byte} (h : b.toNat / 16 ≤ 9 ∧ b.toNat % 16 ≤ 9) : bin2bcd (bcd2bin b) = b := by
  apply BitVec.eq_of_toNat_eq
  rw [toNat_bin2bcd, bcd2bin_eq]
  omega

/-! ## Masked bytes (R133) -/

section masks

variable {m : Byte} {k : Nat}

/-- A mask of the low `k` bits is reduction modulo `2 ^ k`. -/
theorem toNat_and_lowMask (hm : m.toNat = 2 ^ k - 1) (b : Byte) : (b &&& m).toNat = b.toNat % 2 ^ k := by
  rw [BitVec.toNat_and, hm, Nat.and_two_pow_sub_one_eq_mod]

/-- A mask of four bits or more keeps the low nibble. -/
theorem bcd2bin_and_lowMask (hm : m.toNat = 2 ^ k - 1) (hk : 4 ≤ k) (b : Byte) :
    bcd2bin (b &&& m) = 10 * (b.toNat % 2 ^ k / 16) + b.toNat % 16 := by
  rw [bcd2bin_eq, toNat_and_lowMask hm, Nat.mod_mod_of_dvd _ (Nat.pow_dvd_pow 2 hk : 2 ^ 4 ∣ 2 ^ k)]

/-- A number whose digits lie inside the mask is read back from its masked byte. -/
theorem bcd2bin_bin2bcd_and_lowMask (hm : m.toNat = 2 ^ k - 1) {v : Nat} (hv : v < 100)
    (hin : 16 * (v / 10) + v % 10 < 2 ^ k) : bcd2bin (bin2bcd v &&& m) = v := by
  have hbyte : bin2bcd v &&& m = bin2bcd v := by
    apply BitVec.eq_of_toNat_eq
    rw [toNat_and_lowMask hm, toNat_bin2bcd, Nat.mod_eq_of_lt hv, Nat.mod_eq_of_lt hin]
  rw [hbyte, bcd2bin_bin2bcd hv]

end masks

/-! ## The calendar (R134 to R137) -/

theorem leap_iff (y : Nat) : leap y = true ↔ y % 4 = 0 := beq_iff_eq

theorem fullYear_eq (y : Nat) : fullYear y = if y < 70 then 2000 + y else 1900 + y := rfl

/-- The window of R134. -/
theorem fullYear_mem_window {y : Nat} (h : y ≤ 99) : 1970 ≤ fullYear y ∧ fullYear y ≤ 2069 := by
  rw [fullYear_eq]
  split <;> omega

/-- Both centuries of the window begin at a multiple of 4. -/
theorem fullYear_mod_four (y : Nat) : fullYear y % 4 = y % 4 := by
  rw [fullYear_eq]
  split <;> omega

/-- The only century year of the window is 2000, which 400 divides. -/
theorem fullYear_century {y : Nat} (h : y ≤ 99) : fullYear y % 100 ≠ 0 ∨ fullYear y % 400 = 0 := by
  rw [fullYear_eq]
  split <;> omega

/-- R136's table by length of month. -/
theorem daysInMonth_eq {m : Nat} (hlo : 1 ≤ m) (hhi : m ≤ 12) (y : Nat) :
    daysInMonth m y = if m = 2 then (if y % 4 = 0 then 29 else 28)
      else if m = 4 ∨ m = 6 ∨ m = 9 ∨ m = 11 then 30 else 31 := by
  interval_cases m <;> simp [daysInMonth, leap_iff]

theorem daysInMonth_le (m y : Nat) : daysInMonth m y ≤ 31 := by
  have february : (if leap y then 29 else 28) ≤ 31 := by split <;> decide
  unfold daysInMonth
  split <;> omega

theorem validTime_iff (t : CalendarTime) : validTime t = true ↔
    t.second ≤ 59 ∧ t.minute ≤ 59 ∧ t.hour ≤ 23 ∧ t.weekday ≤ 6 ∧ 1 ≤ t.month ∧ t.month ≤ 12 ∧ t.year ≤ 99
    ∧ 1 ≤ t.mday ∧ t.mday ≤ daysInMonth t.month t.year := by
  simp only [validTime, Bool.and_eq_true, decide_eq_true_eq, and_assoc]

/-! ## Images (R138, R139) -/

theorem decodeImage_eq_some_iff (r : TimeImage) (t : CalendarTime) :
    decodeImage r = some t ↔ validTime (imageFields r) = true ∧ imageFields r = t := by
  rw [decodeImage, Option.ite_none_right_eq_some, Option.some_inj]

theorem decodeResult_eq (r : TimeImage) : decodeResult r
    = if validTime (imageFields r) then .ok (.time (imageFields r)) else .error .invalidTimeValue := by
  rw [decodeResult, decodeImage]
  cases validTime (imageFields r) <;> rfl

/-- BIN2BCD reduces the year modulo 100 itself, so ENCODE treats it as every other field (R139). -/
theorem encodeImage_eq (t : CalendarTime) : encodeImage t = ⟨bin2bcd t.second, bin2bcd t.minute, bin2bcd t.hour,
    bin2bcd t.weekday, bin2bcd t.mday, bin2bcd t.month, bin2bcd t.year⟩ := by
  rw [encodeImage, bin2bcd_mod]

/-- ENCODE of a valid time has every digit inside the masks. -/
theorem imageFields_encodeImage {t : CalendarTime} (h : validTime t = true) : imageFields (encodeImage t) = t := by
  obtain ⟨hs, hmin, hh, hw, -, hmon, hy, -, hd⟩ := (validTime_iff t).mp h
  have hday : t.mday ≤ 31 := hd.trans (daysInMonth_le _ _)
  have second : bcd2bin (bin2bcd t.second &&& maskSec) = t.second :=
    bcd2bin_bin2bcd_and_lowMask (k := 7) rfl (by omega) (by omega)
  have minute : bcd2bin (bin2bcd t.minute &&& maskMin) = t.minute :=
    bcd2bin_bin2bcd_and_lowMask (k := 7) rfl (by omega) (by omega)
  have hour : bcd2bin (bin2bcd t.hour &&& maskHour) = t.hour :=
    bcd2bin_bin2bcd_and_lowMask (k := 6) rfl (by omega) (by omega)
  have weekday : bcd2bin (bin2bcd t.weekday &&& maskWday) = t.weekday :=
    bcd2bin_bin2bcd_and_lowMask (k := 7) rfl (by omega) (by omega)
  have mday : bcd2bin (bin2bcd t.mday &&& maskMday) = t.mday :=
    bcd2bin_bin2bcd_and_lowMask (k := 6) rfl (by omega) (by omega)
  have month : bcd2bin (bin2bcd t.month &&& maskMonth) = t.month :=
    bcd2bin_bin2bcd_and_lowMask (k := 5) rfl (by omega) (by omega)
  have year : bcd2bin (bin2bcd t.year) = t.year := bcd2bin_bin2bcd (Nat.lt_succ_of_le hy)
  simp only [imageFields, encodeImage_eq, second, minute, hour, weekday, mday, month, year]

theorem decodeImage_encodeImage {t : CalendarTime} (h : validTime t = true) :
    decodeImage (encodeImage t) = some t := by
  have hfields : imageFields (encodeImage t) = t := imageFields_encodeImage h
  exact (decodeImage_eq_some_iff _ _).mpr ⟨hfields.symm ▸ h, hfields⟩

theorem encodeImage_year_mod (t : CalendarTime) : encodeImage { t with year := t.year % 100 } = encodeImage t := by
  rw [encodeImage_eq, encodeImage_eq, bin2bcd_mod]

/-- ENCODE of the fields of an image undoes each conversion and leaves the masking. -/
theorem encodeImage_imageFields {r : TimeImage}
    (h : ∀ b ∈ imageBytes ⟨r.sec &&& maskSec, r.min &&& maskMin, r.hour &&& maskHour, r.wday &&& maskWday,
      r.mday &&& maskMday, r.month &&& maskMonth, r.year⟩, b.toNat / 16 ≤ 9 ∧ b.toNat % 16 ≤ 9) :
    encodeImage (imageFields r) = ⟨r.sec &&& maskSec, r.min &&& maskMin, r.hour &&& maskHour, r.wday &&& maskWday,
      r.mday &&& maskMday, r.month &&& maskMonth, r.year⟩ := by
  simp only [imageBytes, List.forall_mem_cons] at h
  obtain ⟨hs, hmin, hh, hw, hd, hmon, hy, -⟩ := h
  simp only [encodeImage_eq, imageFields, bin2bcd_bcd2bin hs, bin2bcd_bcd2bin hmin, bin2bcd_bcd2bin hh,
    bin2bcd_bcd2bin hw, bin2bcd_bcd2bin hd, bin2bcd_bcd2bin hmon, bin2bcd_bcd2bin hy]

/-- The fields of an image, each mask a modulus. -/
theorem imageFields_eq (r : TimeImage) : imageFields r =
    { second := 10 * (r.sec.toNat % 128 / 16) + r.sec.toNat % 16
      minute := 10 * (r.min.toNat % 128 / 16) + r.min.toNat % 16
      hour := 10 * (r.hour.toNat % 64 / 16) + r.hour.toNat % 16
      weekday := 10 * (r.wday.toNat % 128 / 16) + r.wday.toNat % 16
      mday := 10 * (r.mday.toNat % 64 / 16) + r.mday.toNat % 16
      month := 10 * (r.month.toNat % 32 / 16) + r.month.toNat % 16
      year := 10 * (r.year.toNat % 256 / 16) + r.year.toNat % 16 } := by
  have year : bcd2bin r.year = 10 * (r.year.toNat % 256 / 16) + r.year.toNat % 16 := by
    rw [bcd2bin_eq, Nat.mod_eq_of_lt (byte_toNat_lt r.year)]
  rw [imageFields, bcd2bin_and_lowMask (k := 7) (m := maskSec) rfl (by decide),
    bcd2bin_and_lowMask (k := 7) (m := maskMin) rfl (by decide),
    bcd2bin_and_lowMask (k := 6) (m := maskHour) rfl (by decide),
    bcd2bin_and_lowMask (k := 7) (m := maskWday) rfl (by decide),
    bcd2bin_and_lowMask (k := 6) (m := maskMday) rfl (by decide),
    bcd2bin_and_lowMask (k := 5) (m := maskMonth) rfl (by decide), year]
  rfl

/-! ## The four operations: only the result is new (R130) -/

theorem exec_bcd2bin (b : Byte) (s : State) :
    exec (.bcd2bin b) s = .next { s with result := some (.ok (.number (bcd2bin b))) } := rfl

theorem exec_bin2bcd (v : Nat) (s : State) :
    exec (.bin2bcd v) s = .next { s with result := some (.ok (.byte (bin2bcd v))) } := rfl

theorem exec_decode (r : TimeImage) (s : State) :
    exec (.decode r) s = .next { s with result := some (decodeResult r) } := rfl

theorem exec_encode (t : CalendarTime) (s : State) :
    exec (.encode t) s = .next { s with result := some (.ok (.image (encodeImage t))) } := rfl

/-- Settles O9: BIN2BCD is the sum of its nibbles, whose digits BCD2BIN reads back. -/
theorem bin2bcdPacksTwoDigits : Obligations.Bin2bcdPacksTwoDigits := by
  refine ⟨fun _ => decodeFrame_bin2bcd, fun v s => ?_, fun v => ⟨toNat_bin2bcd v, ?_⟩, fun _ => bcd2bin_bin2bcd⟩
  · rw [exec_bin2bcd, bin2bcd_eq]
  · rw [toNat_bin2bcd]
    omega

/-- Settles O10: the length of the month is read from R136's table, whose rows the range of the month selects. -/
theorem validTimesAreTheCalendarDates : Obligations.ValidTimesAreTheCalendarDates := by
  intro t
  rw [validTime_iff]
  refine and_congr_right fun _ => and_congr_right fun _ => and_congr_right fun _ => and_congr_right fun _ =>
    and_congr_right fun hlo => and_congr_right fun hhi => ?_
  rw [daysInMonth_eq hlo hhi]

/-- Settles O12: each mask is a modulus, and the answer is decided by `validTime` of the fields. -/
theorem decodeAnswersValidFieldsOnly : Obligations.DecodeAnswersValidFieldsOnly := by
  refine ⟨fun _ => decodeFrame_decode, fun r s => ?_⟩
  rw [exec_decode, decodeResult_eq, imageFields_eq]

/-- Settles O14: encoding does not see the year's hundreds, so the second clause is the first for the reduced time. -/
theorem encodeThenDecodeReturnsTheTime : Obligations.EncodeThenDecodeReturnsTheTime := by
  intro t
  refine ⟨decodeImage_encodeImage, fun h => ⟨?_, fullYear_mem_window (by omega)⟩⟩
  rw [← encodeImage_year_mod]
  exact decodeImage_encodeImage h

/-- Settles O15: a decoded time is the fields of its image. -/
theorem decodeThenEncodeClearsOutsideTheMasks : Obligations.DecodeThenEncodeClearsOutsideTheMasks := by
  intro r t h hdigits
  obtain ⟨-, rfl⟩ := (decodeImage_eq_some_iff r t).mp h
  exact encodeImage_imageFields hdigits

/-- Settles O16: DECODE answers only fields that are valid, and no month has more than 31 days. -/
theorem decodedTimesAreInRange : Obligations.DecodedTimesAreInRange := by
  intro r t h
  obtain ⟨hvalid, rfl⟩ := (decodeImage_eq_some_iff r t).mp h
  obtain ⟨hs, hmin, hh, hw, hmon, hmon', hy, hd, hd'⟩ := (validTime_iff _).mp hvalid
  exact ⟨hs, hmin, hh, hd, hd'.trans (daysInMonth_le _ _), hmon, hmon', hy, hw, hd'⟩

/-- Settles O8: the two nibbles are the quotient and the remainder by 16. -/
theorem bcd2binIsTenHighPlusLow : Obligations.Bcd2binIsTenHighPlusLow := by
  refine ⟨fun _ => decodeFrame_bcd2bin, fun b s => ?_⟩
  rw [exec_bcd2bin, ← bcd2bin_eq]
  exact ⟨rfl, bcd2bin_le b⟩

/-- Settles O11: no year of the window is a century year that 400 does not divide. -/
theorem centuryWindowAndLeapYears : Obligations.CenturyWindowAndLeapYears := by
  intro y h
  obtain ⟨hlo, hhi⟩ := fullYear_mem_window h
  refine ⟨fullYear_eq y, hlo, hhi, leap_iff y, fullYear_mod_four y, ?_⟩
  rw [leap_iff, fullYear_mod_four, and_iff_left (fullYear_century h)]

/-- Settles O13: each byte of the image is BIN2BCD of its field, the year's included. -/
theorem encodePacksEveryField : Obligations.EncodePacksEveryField := by
  refine ⟨fun _ => decodeFrame_encode, fun t s => ?_⟩
  simp only [exec_encode, encodeImage_eq, bin2bcd_eq]

end Sys2Proof.Machine
end

section
/-! PROOFS. StatusRegisters (41_statusregs.md): what BTST, BSET and BCLR say of each bit, the laws that follow, and that
the three operations change nothing but the result. -/

namespace Sys2Proof.Machine

/-! ## Bit by bit (R162 to R164) -/

/-- A byte differs from zero in some bit, and the bits of `b &&& m` are those of both. -/
theorem btst_iff (b m : Byte) : btst b m = true ↔ ∃ i < 8, b.getLsbD i = true ∧ m.getLsbD i = true := by
  have hzero : b &&& m = 0#8 ↔ ∀ i < 8, (b &&& m).getLsbD i = false := by
    simp only [BitVec.eq_of_getLsbD_eq_iff, BitVec.getLsbD_zero]
  rw [btst, bne_iff_ne, ne_eq, hzero]
  simp only [BitVec.getLsbD_and, not_forall, Bool.not_eq_false, Bool.and_eq_true, exists_prop]

theorem getLsbD_bset (b m : Byte) (i : Nat) : (bset b m).getLsbD i = (b.getLsbD i || m.getLsbD i) :=
  BitVec.getLsbD_or

theorem getLsbD_bclr (b m : Byte) {i : Nat} (hi : i < 8) :
    (bclr b m).getLsbD i = (b.getLsbD i && !m.getLsbD i) := by
  rw [bclr, BitVec.getLsbD_and, BitVec.getLsbD_not, decide_eq_true hi, Bool.true_and]

/-! ## The laws, each read off the bits -/

theorem btst_zero (b : Byte) : btst b 0 = false := by
  rw [← Bool.not_eq_true, btst_iff]
  rintro ⟨i, -, -, hm⟩
  simp at hm

theorem bset_bset (b m : Byte) : bset (bset b m) m = bset b m := by
  refine BitVec.eq_of_getLsbD_eq fun i _ => ?_
  simp only [getLsbD_bset, Bool.or_assoc, Bool.or_self]

theorem bclr_bclr (b m : Byte) : bclr (bclr b m) m = bclr b m := by
  refine BitVec.eq_of_getLsbD_eq fun i hi => ?_
  simp only [getLsbD_bclr _ _ hi, Bool.and_assoc, Bool.and_self]

theorem btst_bclr (b m : Byte) : btst (bclr b m) m = false := by
  rw [← Bool.not_eq_true, btst_iff]
  rintro ⟨i, hi, hb, hm⟩
  simp [getLsbD_bclr _ _ hi, hm] at hb

/-- A mask that is not empty has a bit, which BSET sets. -/
theorem btst_bset {m : Byte} (hm : m ≠ 0) (b : Byte) : btst (bset b m) m = true := by
  have hmm : btst m m = true := by rwa [btst, BitVec.and_self, bne_iff_ne]
  obtain ⟨i, hi, -, hmi⟩ := (btst_iff m m).mp hmm
  exact (btst_iff _ m).mpr ⟨i, hi, by rw [getLsbD_bset, hmi, Bool.or_true], hmi⟩

/-! ## The three operations: only the result is new -/

theorem exec_btst (b m : Byte) (s : State) :
    exec (.btst b m) s = .next { s with result := some (.ok (.bool (btst b m))) } := rfl

theorem exec_bset (b m : Byte) (s : State) :
    exec (.bset b m) s = .next { s with result := some (.ok (.byte (bset b m))) } := rfl

theorem exec_bclr (b m : Byte) (s : State) :
    exec (.bclr b m) s = .next { s with result := some (.ok (.byte (bclr b m))) } := rfl

/-- Settles O17: the opcodes by the decoder's rules, the rest by the rule for each bit and the laws it gives. -/
theorem bitAccessorsActOnTheMask : Obligations.BitAccessorsActOnTheMask :=
  ⟨fun _ => ⟨decodeFrame_btst, decodeFrame_bset, decodeFrame_bclr⟩, fun b m s =>
    ⟨exec_btst b m s, btst_iff b m, btst_zero b,
      exec_bset b m s, fun i _ => getLsbD_bset b m i, bset_bset b m,
      exec_bclr b m s, fun _ hi => getLsbD_bclr b m hi, bclr_bclr b m,
      btst_bclr b m, fun hm => btst_bset hm b⟩⟩

end Sys2Proof.Machine
end

section
/-! PROOFS. A sequence of transactions, whatever other agents do in between: the trace it leaves, the choices it uses
up, the fields it cannot touch, and how the first failure ends it. -/

namespace Sys2Proof.Machine

/-! ## The transactions made -/

/-- `t` comes from `s` by the transactions `new`, each with the outcome its choice has; apart from them, registers, the
cache with R48's conditions, the lock and the result are left open. -/
structure State.Makes (new : List Transaction) (s t : State) : Prop where
  trace : t.trace = s.trace ++ new
  outcomes : ∀ k x, new[k]? = some x → (x.succeeded = true ↔ (s.choiceAt k).outcome = .ok)
  choices : t.choices = (s.skipChoices new.length).choices
  drawCount : t.drawCount = (s.skipChoices new.length).drawCount
  events : t.events = s.events
  shutdown : t.shutdown = s.shutdown
  destroyed : t.destroyed = s.destroyed
  params : t.params = s.params
  inputs : t.inputs = s.inputs
  pstate : t.pstate = s.pstate ∨ s.pstate = .armed ∧ t.pstate = .handling

section makes

variable {new more : List Transaction} {s t u : State}

theorem State.Makes.refl (s : State) : State.Makes [] s s :=
  ⟨by simp, by simp, by simp [State.skip_zero], by simp [State.skip_zero], rfl, rfl, rfl, rfl, rfl, .inl rfl⟩

/-- The choices after the transactions are those that follow theirs. -/
theorem State.Makes.choiceAt (h : State.Makes new s t) (k : Nat) : t.choiceAt k = s.choiceAt (new.length + k) := by
  rw [State.choiceAt_congr h.choices h.drawCount, State.choiceAt_skip]

theorem State.Makes.trans (h : State.Makes new s t) (k : State.Makes more t u) : State.Makes (new ++ more) s u where
  trace := by rw [k.trace, h.trace, List.append_assoc]
  outcomes j x hx := by
    by_cases hj : j < new.length
    · exact h.outcomes j x (by rwa [List.getElem?_append_left hj] at hx)
    · rw [List.getElem?_append_right (by omega)] at hx
      rw [k.outcomes _ x hx, h.choiceAt, Nat.add_sub_cancel' (by omega)]
  choices := by
    rw [k.choices, List.length_append, ← State.skip_skip]
    simp only [State.skipChoices, h.choices]
  drawCount := by
    rw [k.drawCount, List.length_append, ← State.skip_skip]
    simp only [State.skipChoices, h.choices, h.drawCount]
  events := k.events.trans h.events
  shutdown := k.shutdown.trans h.shutdown
  destroyed := k.destroyed.trans h.destroyed
  params := k.params.trans h.params
  inputs := k.inputs.trans h.inputs
  pstate := by
    rcases h.pstate with hp | ⟨ha, hp⟩
    · rw [← hp]; exact k.pstate
    · rcases k.pstate with hk | ⟨hk, -⟩
      · exact .inr ⟨ha, hk.trans hp⟩
      · simp [hp] at hk

theorem State.Makes.setResult (h : State.Makes new s t) (r : Result) : State.Makes new s (t.setResult r) :=
  ⟨h.trace, h.outcomes, h.choices, h.drawCount, h.events, h.shutdown, h.destroyed, h.params, h.inputs, h.pstate⟩

/-- Taking and releasing the lock around the transactions is none of theirs. -/
theorem State.Makes.underLock {l : Lock} (h : State.Makes new (s.setLock l) t) (l' : Lock) :
    State.Makes new s (t.setLock l') :=
  ⟨h.trace, h.outcomes, h.choices, h.drawCount, h.events, h.shutdown, h.destroyed, h.params, h.inputs, h.pstate⟩

theorem State.Makes.allSucceed {n : Nat} (h : State.Makes new s t) (ho : s.allSucceed (new.length + n)) :
    t.allSucceed n := fun k hk => by
  rw [h.choiceAt]
  exact ho _ (by omega)

/-- The transaction that comes next succeeds. -/
theorem State.Makes.next_ok (h : State.Makes new s t) (ho : s.allSucceed (new.length + 1)) :
    (t.choiceAt 0).outcome = .ok :=
  h.allSucceed (n := 1) ho 0 (by omega)

theorem State.Makes.undisturbed {n : Nat} (h : State.Makes new s t) (ho : s.undisturbed (new.length + n)) :
    t.undisturbed n := fun k hk => by
  rw [h.choiceAt]
  exact ho _ (by omega)

/-- No transaction ends the device's life or takes it back to the fresh phase (43_device.md R210). -/
theorem State.Makes.phase (h : State.Makes new s t) : t.phase = s.phase := by
  rcases h.pstate with hp | ⟨ha, hp⟩
  · simp only [State.phase, h.destroyed, hp]
  · simp only [State.phase, h.destroyed, hp, ha, reduceCtorEq, if_false]

/-- One transaction, whatever it stores. -/
theorem State.makes_record (m : Memory) {tx : Transaction}
    (ho : tx.succeeded = true ↔ (s.choiceAt 0).outcome = .ok) :
    State.Makes [tx] s ((s.interleave.setRegs m).record tx) where
  trace := by simp
  outcomes k x hx := by
    obtain ⟨rfl, rfl⟩ : k = 0 ∧ tx = x := by
      cases k with
      | zero => exact ⟨rfl, by simpa using hx⟩
      | succ k => simp at hx
    exact ho
  choices := State.interleave_choices s
  drawCount := State.interleave_drawCount s
  events := State.interleave_events s
  shutdown := State.interleave_shutdown s
  destroyed := State.interleave_destroyed s
  params := State.interleave_params s
  inputs := State.interleave_inputs s
  pstate := State.interleave_pstate s

/-! ## One transaction that succeeds -/

theorem State.makes_memRead (a : Addr) (n : Nat) (i : inSpace a n) (ho : (s.choiceAt 0).outcome = .ok) :
    State.Makes [⟨txRead a n, Memory.readBlock s.interleave.regs a.toNat n, true⟩] s (s.memRead a n i).2 := by
  rw [State.memRead_of_ok a n i ho]
  exact State.makes_record s.interleave.regs (by simp [ho])

theorem State.makes_memWrite (a : Addr) (vs : List Byte) (i : inSpace a vs.length)
    (ho : (s.choiceAt 0).outcome = .ok) :
    State.Makes [⟨txWrite a vs.length, vs, true⟩] s (s.memWrite a vs i).2 := by
  rw [State.memWrite_of_ok a vs i ho]
  exact State.makes_record _ (by simp [ho])

theorem State.writeControl_of_ok (v : Byte) (ho : (s.choiceAt 0).outcome = .ok) :
    s.writeControl v = (true, ((s.memWrite regControl [v] (inSpace_byte _)).2.setCache v).setSynced true) := by
  simp only [State.writeControl, State.memWrite_of_ok _ _ _ ho]

theorem State.makes_writeControl (v : Byte) (ho : (s.choiceAt 0).outcome = .ok) :
    State.Makes [⟨txWrite regControl 1, [v], true⟩] s (s.writeControl v).2 := by
  rw [State.writeControl_of_ok v ho]
  obtain ⟨ht, ho, hc, hd, he, hs, hx, hp, hi, hq⟩ := State.makes_memWrite regControl [v] (inSpace_byte _) ho
  exact ⟨ht, ho, hc, hd, he, hs, hx, hp, hi, hq⟩

/-! ## A transaction, by its outcome, and what follows it (43_device.md R218) -/

theorem State.readThen_of_ok {a : Addr} {n : Nat} {i : inSpace a n} {k : List Byte → State → State}
    (ho : (s.choiceAt 0).outcome = .ok) :
    s.readThen a n i k = k (Memory.readBlock s.interleave.regs a.toNat n) (s.memRead a n i).2 := by
  simp only [State.readThen, State.memRead_of_ok a n i ho]

theorem State.readByteThen_of_ok {a : Addr} {k : Byte → State → State} (ho : (s.choiceAt 0).outcome = .ok) :
    s.readByteThen a k = k (s.interleave.x a) (s.memRead a 1 (inSpace_byte a)).2 :=
  State.readThen_of_ok ho

/-- A failed read has no data (20_memory.md R68, R85). -/
theorem State.memRead_of_not_ok (a : Addr) (n : Nat) (i : inSpace a n) (h : (s.choiceAt 0).outcome ≠ .ok) :
    s.memRead a n i = (none, s.interleave.record ⟨txRead a n, [], false⟩) := by
  cases hf : (s.choiceAt 0).outcome with
  | ok => exact absurd hf h
  | fails stored => exact State.memRead_of_fails a n i hf

theorem State.readThen_of_fails {a : Addr} {n : Nat} {i : inSpace a n} {k : List Byte → State → State}
    (ho : (s.choiceAt 0).outcome ≠ .ok) :
    s.readThen a n i k = (s.memRead a n i).2.raise (.transportError (txRead a n)) := by
  simp only [State.readThen, State.memRead_of_not_ok a n i ho]
  rfl

theorem State.writeThen_of_ok {a : Addr} {vs : List Byte} {i : inSpace a vs.length} {k : State → State}
    (ho : (s.choiceAt 0).outcome = .ok) : s.writeThen a vs i k = k (s.memWrite a vs i).2 := by
  simp only [State.writeThen, State.memWrite_of_ok a vs i ho]

theorem State.writeThen_of_fails {a : Addr} {vs : List Byte} {i : inSpace a vs.length} {k : State → State}
    (ho : (s.choiceAt 0).outcome ≠ .ok) :
    s.writeThen a vs i k = (s.memWrite a vs i).2.raise (.transportError (txWrite a vs.length)) := by
  cases hf : (s.choiceAt 0).outcome with
  | ok => exact absurd hf ho
  | fails stored => simp only [State.writeThen, State.memWrite_of_fails a vs i hf]; rfl

theorem State.writeControlThen_of_ok {v : Byte} {k : State → State} (ho : (s.choiceAt 0).outcome = .ok) :
    s.writeControlThen v k = k (s.writeControl v).2 := by
  simp only [State.writeControlThen, State.writeControl_of_ok v ho]

theorem State.writeControlThen_of_fails {v : Byte} {k : State → State} (ho : (s.choiceAt 0).outcome ≠ .ok) :
    s.writeControlThen v k = (s.writeControl v).2.raise (.transportError (txWrite regControl 1)) := by
  cases hf : (s.choiceAt 0).outcome with
  | ok => exact absurd hf ho
  | fails stored => simp only [State.writeControlThen, State.writeControl, State.memWrite_of_fails _ _ _ hf]; rfl

/-! ## One transaction of either outcome -/

theorem State.memRead_cache (s : State) (a : Addr) (n : Nat) (i : inSpace a n) : (s.memRead a n i).2.cache = s.cache :=
  congrArg Prod.fst (State.memRead_cacheView s a n i)

theorem State.memWrite_cache (s : State) (a : Addr) (vs : List Byte) (i : inSpace a vs.length) :
    (s.memWrite a vs i).2.cache = s.cache :=
  congrArg Prod.fst (State.memWrite_cacheView s a vs i)

theorem State.makes_memRead_any (a : Addr) (n : Nat) (i : inSpace a n) :
    ∃ tx : Transaction, tx.info = txRead a n ∧ State.Makes [tx] s (s.memRead a n i).2 := by
  by_cases ho : (s.choiceAt 0).outcome = .ok
  · exact ⟨_, rfl, State.makes_memRead a n i ho⟩
  · rw [State.memRead_of_not_ok a n i ho]
    exact ⟨⟨txRead a n, [], false⟩, rfl, State.makes_record s.interleave.regs (by simp [ho])⟩

theorem State.makes_memWrite_any (a : Addr) (vs : List Byte) (i : inSpace a vs.length) :
    ∃ tx : Transaction, tx.info = txWrite a vs.length ∧ State.Makes [tx] s (s.memWrite a vs i).2 := by
  cases ho : (s.choiceAt 0).outcome with
  | ok => exact ⟨_, rfl, State.makes_memWrite a vs i ho⟩
  | fails stored =>
    rw [State.memWrite_of_fails a vs i ho]
    exact ⟨⟨txWrite a vs.length, vs, false⟩, rfl, State.makes_record _ (by simp [ho])⟩

/-- A Control write's effect on the cache is none of the transaction's (20_memory.md R82). -/
theorem State.makes_writeControl_any (v : Byte) :
    ∃ tx : Transaction, tx.info = txWrite regControl 1 ∧ State.Makes [tx] s (s.writeControl v).2 := by
  obtain ⟨tx, hx, ht, ho, hc, hd, he, hs, hdes, hp, hi, hq⟩ :=
    State.makes_memWrite_any (s := s) regControl [v] (inSpace_byte _)
  refine ⟨tx, hx, ?_⟩
  rcases State.writeControl_snd s v with e | e <;> rw [e] <;> exact ⟨ht, ho, hc, hd, he, hs, hdes, hp, hi, hq⟩

end makes

/-! ## A plan of transactions, ended by the first that fails -/

/-- From `s` to `t` the transactions of `plan` are made in order, until the first that fails: then the result names it;
without a failure all are made and the result is OK without a value (43_device.md R218, 60_exceptions.md R241). -/
def State.Follows (plan : List TxInfo) (s t : State) : Prop :=
  ∃ new, State.Makes new s t ∧ new.map (·.info) = plan.take new.length
    ∧ (new.length = plan.length ∧ (∀ x ∈ new, x.succeeded = true) ∧ t.result = some (.ok .none)
      ∨ ∃ before last, new = before ++ [last] ∧ (∀ x ∈ before, x.succeeded = true) ∧ last.succeeded = false
        ∧ t.result = some (.error (.transportError last.info)))

section follows

variable {plan : List TxInfo} {s s' t : State}

theorem State.Follows.done (s : State) : State.Follows [] s (s.succeed .none) :=
  ⟨[], (State.Makes.refl s).setResult _, rfl, .inl ⟨rfl, by simp, rfl⟩⟩

/-- The first transaction of a plan: after a success the rest of the plan follows, a failure ends it. -/
theorem State.Follows.cons {x : TxInfo} (hm : ∃ tx : Transaction, tx.info = x ∧ State.Makes [tx] s s')
    (hok : (s.choiceAt 0).outcome = .ok → State.Follows plan s' t)
    (hfail : (s.choiceAt 0).outcome ≠ .ok → t = s'.raise (.transportError x)) : State.Follows (x :: plan) s t := by
  obtain ⟨tx, rfl, hm⟩ := hm
  have htx := hm.outcomes 0 tx rfl
  by_cases ho : (s.choiceAt 0).outcome = .ok
  · obtain ⟨more, hk, hinfo, hend⟩ := hok ho
    refine ⟨tx :: more, hm.trans hk, by simp [hinfo], ?_⟩
    rcases hend with ⟨hl, hall, hr⟩ | ⟨before, last, rfl, hall, hlast, hr⟩
    · exact .inl ⟨by simp [hl], List.forall_mem_cons.mpr ⟨htx.mpr ho, hall⟩, hr⟩
    · exact .inr ⟨tx :: before, last, rfl, List.forall_mem_cons.mpr ⟨htx.mpr ho, hall⟩, hlast, hr⟩
  · rw [hfail ho]
    refine ⟨[tx], hm.setResult _, by simp, .inr ⟨[], tx, rfl, by simp, ?_, rfl⟩⟩
    rw [← Bool.not_eq_true, htx]
    exact ho

theorem State.Follows.readByteThen {a : Addr} {k : Byte → State → State}
    (hk : ∀ b, State.Follows plan (s.memRead a 1 (inSpace_byte a)).2 (k b (s.memRead a 1 (inSpace_byte a)).2)) :
    State.Follows (txRead a 1 :: plan) s (s.readByteThen a k) :=
  .cons (State.makes_memRead_any a 1 _) (fun ho => by rw [State.readByteThen_of_ok ho]; exact hk _)
    State.readThen_of_fails

theorem State.Follows.writeThen {a : Addr} {vs : List Byte} {i : inSpace a vs.length} {k : State → State}
    (hk : State.Follows plan (s.memWrite a vs i).2 (k (s.memWrite a vs i).2)) :
    State.Follows (txWrite a vs.length :: plan) s (s.writeThen a vs i k) :=
  .cons (State.makes_memWrite_any a vs i) (fun ho => by rw [State.writeThen_of_ok ho]; exact hk)
    State.writeThen_of_fails

theorem State.Follows.writeControlThen {v : Byte} {k : State → State}
    (hk : State.Follows plan (s.writeControl v).2 (k (s.writeControl v).2)) :
    State.Follows (txWrite regControl 1 :: plan) s (s.writeControlThen v k) :=
  .cons (State.makes_writeControl_any v) (fun ho => by rw [State.writeControlThen_of_ok ho]; exact hk)
    State.writeControlThen_of_fails

theorem State.Follows.clearAlarmFlagThen {k : State → State}
    (hk : ∀ s', s'.cache = s.cache → State.Follows plan s' (k s')) :
    State.Follows (txRead regFlag 1 :: txWrite regFlag 1 :: plan) s (s.clearAlarmFlagThen k) :=
  .readByteThen fun _ => .writeThen <| hk _ <| (State.memWrite_cache _ _ _ _).trans (State.memRead_cache _ _ _ _)

end follows

end Sys2Proof.Machine
end

section
/-! PROOFS. AlarmManager, whatever fails: SETALARM and ALARMEN make their transactions in the order of 42_alarm.md R185
and R186 and end at the first one that fails. -/

namespace Sys2Proof.Machine

/-! ## The bit AIE -/

theorem btst_maskAIE (b : Byte) : btst b maskAIE = b.getLsbD 3 := by
  revert b
  decide

theorem btst_bput_maskAIE (b : Byte) (e : Bool) : btst (bput b maskAIE e) maskAIE = e := by
  cases e with
  | false => exact btst_bclr b maskAIE
  | true => exact btst_bset (by decide) b

/-- ALARMEN's new byte is the cache's where AIE already is as asked (42_alarm.md R186). -/
theorem bput_maskAIE_eq_iff (b : Byte) (e : Bool) : bput b maskAIE e = b ↔ btst b maskAIE = e := by
  constructor
  · intro h
    rw [← h, btst_bput_maskAIE]
  · rintro rfl
    exact bput_btst_maskAIE b

/-! ## The plans -/

/-- R185's transactions from step 2 on. -/
def programPlan (a : AlarmSpec) : List TxInfo :=
  [txWrite regAlarmMin 2, txRead regExtension 1, txWrite regExtension 1, txWrite regAlarmDay 1, txRead regFlag 1,
    txWrite regFlag 1] ++ (if a.enabled then [txWrite regControl 1] else [])

theorem State.follows_enableAlarm (s : State) (e : Bool) :
    State.Follows (if e then [txWrite regControl 1] else []) s (s.enableAlarm e) := by
  cases e with
  | false => exact .done s
  | true => exact .writeControlThen (.done _)

theorem State.follows_programAlarm (s : State) (a : AlarmSpec) :
    State.Follows (programPlan a) s (State.programAlarm a s) :=
  .writeThen <| .readByteThen fun _ => .writeThen <| .writeThen <| .clearAlarmFlagThen fun s' _ =>
    State.follows_enableAlarm s' a.enabled

theorem State.follows_setAlarmBody (s : State) (a : AlarmSpec) :
    State.Follows ((if btst s.cache maskAIE then [txWrite regControl 1] else []) ++ programPlan a) s
      (State.setAlarmBody a s) := by
  rw [State.setAlarmBody_eq]
  unfold State.disableAlarmThen
  split
  · exact .writeControlThen (State.follows_programAlarm _ a)
  · exact State.follows_programAlarm s a

/-- Flag's two transactions leave the cache, so ALARMEN compares the new byte with the one it began with. -/
theorem State.follows_alarmEnBody (s : State) (e : Bool) :
    State.Follows ([txRead regFlag 1, txWrite regFlag 1]
      ++ (if btst s.cache maskAIE = e then [] else [txWrite regControl 1])) s (State.alarmEnBody e s) := by
  refine .clearAlarmFlagThen fun s' hs => ?_
  simp only [hs, bput_maskAIE_eq_iff]
  split
  · exact .done s'
  · exact .writeControlThen (.done _)

/-! ## The operations -/

/-- An operation whose body follows a plan under the lock. -/
theorem exec_follows {i : Instr} {s : State} {body : State → State} {plan : List TxInfo} (hl : s.lock = .free)
    (he : exec i s = s.locked i body) (hb : State.Follows plan (s.setLock .foreground) (body (s.setLock .foreground))) :
    ∃ u, exec i s = .next u ∧ u.lock = .free ∧ State.Follows plan s u := by
  obtain ⟨new, hm, hend⟩ := hb
  exact ⟨_, he.trans (State.locked_free hl i body), rfl, new, hm.underLock .free, hend⟩

theorem exec_setAlarm {s : State} {a : AlarmSpec} (hp : s.phase = .live) (hi : s.params.hasIrq = true)
    (hv : validAlarm a = true) : exec (.setAlarm a) s = s.locked (.setAlarm a) (State.setAlarmBody a) :=
  (State.whenAlarm_live hp hi _).trans (if_pos hv)

theorem exec_alarmEn {s : State} (e : Bool) (hp : s.phase = .live) (hi : s.params.hasIrq = true) :
    exec (.alarmEn e) s = s.locked (.alarmEn e) (State.alarmEnBody e) :=
  State.whenAlarm_live hp hi _

/-- Settles O37: each body follows its plan of transactions. -/
theorem alarmOperationsStopAtTheFirstFailure : Obligations.AlarmOperationsStopAtTheFirstFailure := by
  intro i plan s hp hi hl hplan
  have key : ∃ u, exec i s = .next u ∧ u.lock = .free ∧ State.Follows plan s u := by
    rcases hplan with ⟨a, rfl, hv, rfl⟩ | ⟨e, rfl, rfl⟩
    · rw [← btst_maskAIE, List.append_assoc]
      exact exec_follows hl (exec_setAlarm hp hi hv) (State.follows_setAlarmBody (s.setLock .foreground) a)
    · rw [← btst_maskAIE]
      exact exec_follows hl (exec_alarmEn e hp hi) (State.follows_alarmEnBody (s.setLock .foreground) e)
  obtain ⟨u, hu, hlock, new, hm, hinfo, hend⟩ := key
  exact ⟨u, new, hu, hm.trace, hinfo, hm.outcomes, hend, hlock, hm.events, hm.shutdown, hm.destroyed, hm.pstate⟩

end Sys2Proof.Machine
end

section
/-! PROOFS. GETALARM (42_alarm.md R184): the state before each of its reads, on every path and with any interleaving. -/

namespace Sys2Proof.Machine

/-! ## The state before a transaction -/

section waiting

variable (s : State) (es : List EnvStep)

/-- The other agents see the registers, the parameters, `pstate` and `destroyed` alone: in any state with the same they
do the same. -/
theorem State.envSteps_of_congr {s t : State} (es : List EnvStep) (hr : s.regs = t.regs) (hp : s.params = t.params)
    (hq : s.pstate = t.pstate) (hd : s.destroyed = t.destroyed) :
    s.envSteps es = (s.setRegs (t.envSteps es).regs).setPState (t.envSteps es).pstate := by
  obtain ⟨er, eq⟩ := State.envSteps_congr es s t hr hp hq hd
  rw [State.envSteps_eq, er, eq]

theorem State.envSteps_setLock (l : Lock) : (s.setLock l).envSteps es = (s.envSteps es).setLock l :=
  (State.envSteps_of_congr (s := s.setLock l) (t := s) es rfl rfl rfl rfl).trans
    (congrArg (·.setLock l) (State.envSteps_eq es s).symm)

theorem State.envSteps_record (tx : Transaction) : (s.record tx).envSteps es = (s.envSteps es).record tx :=
  (State.envSteps_of_congr (s := s.record tx) (t := s) es rfl rfl rfl rfl).trans
    (congrArg (·.record tx) (State.envSteps_eq es s).symm)

theorem State.envSteps_skipChoices (n : Nat) : (s.skipChoices n).envSteps es = (s.envSteps es).skipChoices n :=
  (State.envSteps_of_congr (s := s.skipChoices n) (t := s) es rfl rfl rfl rfl).trans
    (congrArg (·.skipChoices n) (State.envSteps_eq es s).symm)

theorem State.interleave_record (tx : Transaction) : (s.record tx).interleave = s.interleave.record tx := by
  simp only [State.interleave_eq_skip, State.choiceAt_record]
  exact State.envSteps_record (s.skipChoices 1) _ tx

theorem State.stepsBefore_succ (n : Nat) : s.stepsBefore (n + 1) = s.stepsBefore n ++ (s.choiceAt n).steps := by
  simp [State.stepsBefore, List.range_succ]

/-- What the other agents make of the state before its `n`th transaction, the choices up to it used up. -/
def State.waited (n : Nat) : State := (s.envSteps (s.stepsBefore n)).skipChoices n

theorem State.waited_zero : s.waited 0 = s := State.skip_zero s

theorem State.interleave_waited (n : Nat) : (s.waited n).interleave = s.waited (n + 1) := by
  have hc : (s.waited n).choiceAt 0 = s.choiceAt n := by simp [State.waited]
  rw [State.interleave_eq_skip, hc, State.waited, State.skip_skip, State.envSteps_skipChoices,
    ← State.envSteps_append, ← State.stepsBefore_succ, State.waited]

/-- The state before the first transaction. -/
theorem State.interleave_eq_waited : s.interleave = s.waited 1 := by
  rw [← State.interleave_waited, State.waited_zero]

/-- The state before the second transaction, the first having been a read. -/
theorem State.interleave_record_interleave (tx : Transaction) :
    (s.interleave.record tx).interleave = (s.waited 2).record tx := by
  rw [State.interleave_record, State.interleave_eq_waited s, State.interleave_waited]

theorem State.waited_trace (n : Nat) : (s.waited n).trace = s.trace := State.envSteps_trace s _

/-- Where an operation ends that made the `n` transactions `new`, stored nothing, and returns `r`. -/
def State.endOfReads (n : Nat) (new : List Transaction) (r : Result) : State :=
  { s.waited n with trace := s.trace ++ new, result := some r }

end waiting

section locked

variable {s : State}

/-- Under the lock the registers before a transaction are as without it. -/
theorem State.waited_setLock_x (l : Lock) (n : Nat) (a : Addr) :
    ((s.setLock l).waited n).x a = (s.envSteps (s.stepsBefore n)).x a :=
  congrArg (·.x a) (State.envSteps_setLock s (s.stepsBefore n) l)

/-- Taken and released around the reads, the lock leaves the end of the operation as it would be without it. -/
theorem State.endOfReads_underLock (hl : s.lock = .free) (l : Lock) (n : Nat) (new : List Transaction) (r : Result) :
    ((s.setLock l).endOfReads n new r).setLock .free = { s.envSteps (s.stepsBefore n) with
      choices := (s.skipChoices n).choices
      drawCount := (s.skipChoices n).drawCount
      trace := s.trace ++ new
      result := some r } := by
  have hw : (s.setLock l).waited n = (s.waited n).setLock l :=
    congrArg (·.skipChoices n) (State.envSteps_setLock s (s.stepsBefore n) l)
  rw [State.endOfReads, hw, State.waited]
  simp [State.setLock, State.skipChoices, hl]

end locked

/-! ## GETALARM -/

theorem btst_maskAE (b : Byte) : btst b maskAE = b.getLsbD 7 := by
  revert b
  decide

theorem btst_maskAF (b : Byte) : btst b maskAF = b.getLsbD 3 := btst_maskAIE b

section paths

variable {s : State}

/-- The record of the alarm block's read. -/
def State.alarmBlockRead (s : State) : Transaction :=
  ⟨txRead regAlarmMin 3, [(s.waited 1).x regAlarmMin, (s.waited 1).x regAlarmHour, (s.waited 1).x regAlarmDay], true⟩

theorem State.memRead_alarmBlock (i : inSpace regAlarmMin 3) (h : (s.choiceAt 0).outcome = .ok) :
    s.memRead regAlarmMin 3 i = (some s.alarmBlockRead.data, s.interleave.record s.alarmBlockRead) := by
  rw [State.memRead_of_ok _ _ _ h, State.alarmBlockRead, ← State.interleave_eq_waited]
  rfl

theorem State.getAlarmBody_of_fails (h : (s.choiceAt 0).outcome ≠ .ok) : s.getAlarmBody
    = s.endOfReads 1 [⟨txRead regAlarmMin 3, [], false⟩] (.error (.transportError (txRead regAlarmMin 3))) := by
  rw [State.getAlarmBody, State.readThen_of_fails h, State.memRead_of_not_ok _ _ _ h, State.interleave_eq_waited,
    State.endOfReads, ← State.waited_trace s 1]
  rfl

theorem State.getAlarmBody_of_second_fails (h0 : (s.choiceAt 0).outcome = .ok) (h1 : (s.choiceAt 1).outcome ≠ .ok) :
    s.getAlarmBody = s.endOfReads 2 [s.alarmBlockRead, ⟨txRead regFlag 1, [], false⟩]
      (.error (.transportError (txRead regFlag 1))) := by
  have hc : ((s.interleave.record s.alarmBlockRead).choiceAt 0).outcome ≠ .ok := by simpa using h1
  simp only [State.getAlarmBody, State.readThen, State.memRead_alarmBlock _ h0]
  refine (State.readThen_of_fails hc).trans ?_
  rw [State.memRead_of_not_ok _ _ _ hc, State.interleave_record_interleave, State.endOfReads, ← State.waited_trace s 2]
  simp [State.record, State.raise, State.setResult]

theorem State.getAlarmBody_of_ok (h0 : (s.choiceAt 0).outcome = .ok) (h1 : (s.choiceAt 1).outcome = .ok) :
    s.getAlarmBody = s.endOfReads 2 [s.alarmBlockRead, ⟨txRead regFlag 1, [(s.waited 2).x regFlag], true⟩]
      (.ok (.alarm (decodeAlarm ((s.waited 1).x regAlarmMin) ((s.waited 1).x regAlarmHour)
        ((s.waited 1).x regAlarmDay) (btst s.cache maskAIE))
          (btst ((s.waited 2).x regFlag) maskAF && btst s.cache maskAIE))) := by
  have hc : ((s.interleave.record s.alarmBlockRead).choiceAt 0).outcome = .ok := by simpa using h1
  simp only [State.getAlarmBody, State.readThen, State.memRead_alarmBlock _ h0]
  refine (State.readByteThen_of_ok hc).trans ?_
  rw [State.memRead_of_ok _ _ _ hc, State.interleave_record_interleave, State.endOfReads, ← State.waited_trace s 2]
  have hcache : (s.waited 2).cache = s.cache := State.envSteps_cache s _
  simp only [State.record, State.succeed, State.setResult, List.append_assoc, hcache]
  rfl

end paths

theorem exec_getAlarm {s : State} (hp : s.phase = .live) (hi : s.params.hasIrq = true) :
    exec .getAlarm s = s.locked .getAlarm State.getAlarmBody :=
  State.whenAlarm_live hp hi _

/-- Settles O32: the outcomes of the two reads decide between the three paths. -/
theorem getAlarmReportsTheAlarm : Obligations.GetAlarmReportsTheAlarm := by
  refine ⟨fun f => decodeFrame_getAlarm, fun s hp hi hl => ?_⟩
  rw [exec_getAlarm hp hi, State.locked_free hl]
  cases h0 : (s.choiceAt 0).outcome with
  | fails stored =>
    rw [State.getAlarmBody_of_fails (by simp [h0]), State.endOfReads_underLock hl]
    rfl
  | ok =>
    cases h1 : (s.choiceAt 1).outcome with
    | fails stored =>
      rw [State.getAlarmBody_of_second_fails (by simp [h0]) (by simp [h1]), State.endOfReads_underLock hl]
      simp only [State.alarmBlockRead, State.waited_setLock_x]
      rfl
    | ok =>
      rw [State.getAlarmBody_of_ok (by simp [h0]) (by simp [h1]), State.endOfReads_underLock hl]
      simp only [State.alarmBlockRead, State.waited_setLock_x, decodeAlarm, btst_maskAE, btst_maskAF, btst_maskAIE]
      rfl

end Sys2Proof.Machine
end

section
/-! PROOFS. ALARMEN where no transaction fails (42_alarm.md R186, R188), as a row of stages: each has its transactions
and what it makes of every register that the other agents leave alone. -/

namespace Sys2Proof.Machine

/-! ## Registers the other agents leave alone -/

/-- The register at `b` is out of the other agents' reach, or nobody steps before the next `n` transactions
(60_exceptions.md R278). -/
def State.quiet (b : Addr) (n : Nat) (s : State) : Prop :=
  (isTimeRegister b = false ∧ b ≠ regFlag) ∨ s.undisturbed n

section transactions

variable {s t : State} {b : Addr} {n : Nat}

theorem State.allSucceed_mono {m : Nat} (h : s.allSucceed n) (hm : m ≤ n) : s.allSucceed m :=
  fun k hk => h k (by omega)

theorem State.quiet_mono {m : Nat} (h : s.quiet b n) (hm : m ≤ n) : s.quiet b m :=
  h.imp_right (State.undisturbed_mono · hm)

theorem State.Makes.quiet {new : List Transaction} (h : State.Makes new s t) (hq : s.quiet b (new.length + n)) :
    t.quiet b n :=
  hq.imp_right h.undisturbed

theorem State.interleave_x_of_quiet (h : s.quiet b 1) : s.interleave.x b = s.x b := by
  rcases h with ⟨ht, hf⟩ | hu
  · exact State.interleave_x s b ht hf
  · rw [State.interleave_calm s (hu 0 (by omega)), State.skipChoices_x]

theorem State.memRead_x_of_quiet (a : Addr) (i : inSpace a n) (h : s.quiet b 1) : (s.memRead a n i).2.x b = s.x b := by
  obtain ⟨tx, e⟩ := State.memRead_snd s a n i
  rw [e, State.record_x, State.interleave_x_of_quiet h]

theorem State.memWrite_x_of_quiet {a : Addr} {vs : List Byte} (i : inSpace a vs.length) (h : s.quiet b 1)
    (hm : TxInfo.misses ⟨a, vs.length, .write⟩ b) : (s.memWrite a vs i).2.x b = s.x b := by
  rw [State.memWrite_x_of_misses s a vs i hm, State.interleave_x_of_quiet h]

/-- A one-byte write that succeeds. -/
theorem State.memWriteByte_x (a : Addr) (v : Byte) (ho : (s.choiceAt 0).outcome = .ok) (h : s.quiet b 1) :
    (s.memWrite a [v] (inSpace_byte a)).2.x b = if b = a then v else s.x b := by
  split
  · next e =>
    obtain ⟨-, hstored, -⟩ := (transactionsReadAndStoreAscending s a ho).2 [v] (inSpace_byte a)
    simpa [e] using hstored 0 (by simp)
  · next hne => exact State.memWrite_x_of_quiet _ h (TxInfo.misses_of_ne _ hne)

/-- The write of the minute and hour alarm bytes, where it succeeds (42_alarm.md R185 step 2). -/
theorem State.memWriteAlarmPair_x (v w : Byte) (ho : (s.choiceAt 0).outcome = .ok) (h : s.quiet b 1) :
    (s.memWrite regAlarmMin [v, w] alarmPair_inSpace).2.x b
      = if b = regAlarmMin then v else if b = regAlarmHour then w else s.x b := by
  obtain ⟨-, hstored, -⟩ := (transactionsReadAndStoreAscending s regAlarmMin ho).2 [v, w] alarmPair_inSpace
  split
  · next e => rw [e]; exact hstored 0 (by simp)
  · split
    · next e => rw [e]; exact hstored 1 (by simp)
    · next hmin hhour => exact State.memWrite_x_of_quiet _ h (TxInfo.misses_alarmPair hmin hhour)

end transactions

/-! ## Stages of an operation -/

/-- `t` comes from `s` by the transactions `new`, and every register `b` that the other agents leave alone meanwhile
holds `φ b` of what it held. -/
structure State.Performs (new : List Transaction) (φ : Addr → Byte → Byte) (s t : State) : Prop where
  makes : State.Makes new s t
  x : ∀ b, s.quiet b new.length → t.x b = φ b (s.x b)

section stages

variable {s t u : State} {new more : List Transaction} {φ ψ : Addr → Byte → Byte}

theorem State.Performs.refl (s : State) : State.Performs [] (fun _ v => v) s s := ⟨.refl s, fun _ _ => rfl⟩

theorem State.Performs.trans (h : State.Performs new φ s t) (k : State.Performs more ψ t u) :
    State.Performs (new ++ more) (fun b v => ψ b (φ b v)) s u where
  makes := h.makes.trans k.makes
  x b hq := by
    rw [List.length_append] at hq
    rw [k.x b (h.makes.quiet hq), h.x b (State.quiet_mono hq (by omega))]

theorem State.performs_memRead (a : Addr) (ho : (s.choiceAt 0).outcome = .ok) :
    State.Performs [⟨txRead a 1, [s.interleave.x a], true⟩] (fun _ v => v) s (s.memRead a 1 (inSpace_byte a)).2 :=
  ⟨State.makes_memRead a 1 _ ho, fun _ hq => State.memRead_x_of_quiet a _ hq⟩

theorem State.performs_memWriteByte (a : Addr) (w : Byte) (ho : (s.choiceAt 0).outcome = .ok) :
    State.Performs [⟨txWrite a 1, [w], true⟩] (fun b v => if b = a then w else v) s
      (s.memWrite a [w] (inSpace_byte a)).2 :=
  ⟨State.makes_memWrite a [w] _ ho, fun _ hq => State.memWriteByte_x a w ho hq⟩

/-- The write of the minute and hour alarm bytes (42_alarm.md R185 step 2). -/
theorem State.performs_alarmPair (v w : Byte) (ho : (s.choiceAt 0).outcome = .ok) :
    State.Performs [⟨txWrite regAlarmMin 2, [v, w], true⟩]
      (fun b u => if b = regAlarmMin then v else if b = regAlarmHour then w else u) s
      (s.memWrite regAlarmMin [v, w] alarmPair_inSpace).2 :=
  ⟨State.makes_memWrite regAlarmMin [v, w] _ ho, fun _ hq => State.memWriteAlarmPair_x v w ho hq⟩

end stages

/-! ## A register read and written back -/

/-- The byte at `a` read, and `g` of it written back. -/
def State.modify (a : Addr) (g : Byte → Byte) (s : State) : State :=
  ((s.memRead a 1 (inSpace_byte a)).2.memWrite a [g (s.interleave.x a)] (inSpace_byte a)).2

section modify

variable {s : State} {a : Addr} {g : Byte → Byte}

theorem State.performs_modify (h : s.allSucceed 2) : State.Performs
    [⟨txRead a 1, [s.interleave.x a], true⟩, ⟨txWrite a 1, [g (s.interleave.x a)], true⟩]
    (fun b v => if b = a then g v else v) s (s.modify a g) := by
  have hr := State.performs_memRead a (h 0 (by omega))
  have hw := hr.trans (State.performs_memWriteByte a (g (s.interleave.x a)) (hr.makes.next_ok h))
  refine ⟨hw.makes, fun b hq => (hw.x b hq).trans ?_⟩
  split
  · next e => rw [← e, State.interleave_x_of_quiet (State.quiet_mono hq (by simp))]
  · rfl

theorem State.modify_cacheView (s : State) (a : Addr) (g : Byte → Byte) : (s.modify a g).cacheView = s.cacheView :=
  (State.memWrite_cacheView _ _ _ _).trans (State.memRead_cacheView _ _ _ _)

theorem State.modify_cache (s : State) (a : Addr) (g : Byte → Byte) : (s.modify a g).cache = s.cache :=
  congrArg Prod.fst (s.modify_cacheView a g)

theorem State.readByteThen_writeByteThen {k : State → State} (h : s.allSucceed 2) :
    (s.readByteThen a fun v s => s.writeByteThen a (g v) k) = k (s.modify a g) := by
  have hr := State.performs_memRead a (h 0 (by omega))
  exact (State.readByteThen_of_ok (h 0 (by omega))).trans (State.writeThen_of_ok (hr.makes.next_ok h))

end modify

/-! ## A Control write under a condition -/

/-- Control, and with it the cache, written where `c` holds. -/
def State.writeControlIf (c : Prop) [Decidable c] (w : Byte) (s : State) : State :=
  if c then (s.writeControl w).2 else s

section control

variable {s : State} {c : Prop} [Decidable c] {w : Byte}

theorem State.performs_writeControlIf (h : c → (s.choiceAt 0).outcome = .ok) :
    State.Performs (if c then [⟨txWrite regControl 1, [w], true⟩] else [])
      (fun b v => if c ∧ b = regControl then w else v) s (s.writeControlIf c w) := by
  unfold State.writeControlIf
  by_cases hc : c
  · simp only [hc, if_true, true_and]
    refine ⟨State.makes_writeControl w (h hc), fun b hq => ?_⟩
    rw [State.writeControl_x, State.memWriteByte_x regControl w (h hc) hq]
  · simp only [hc, if_false, false_and]
    exact .refl s

theorem State.writeControlIf_cache (h : c → (s.choiceAt 0).outcome = .ok) :
    (s.writeControlIf c w).cache = if c then w else s.cache := by
  unfold State.writeControlIf
  split
  · next hc => rw [State.writeControl_of_ok w (h hc)]; rfl
  · rfl

theorem State.writeControlIf_clean (h : c → (s.choiceAt 0).outcome = .ok) :
    (s.writeControlIf c w).clean = s.clean := by
  unfold State.writeControlIf
  split
  · next hc =>
    rw [State.writeControl_of_ok w (h hc)]
    exact congrArg (·.2.1) (State.memWrite_cacheView s regControl [w] (inSpace_byte _))
  · rfl

theorem State.ite_writeControlThen {k : State → State} (h : c → (s.choiceAt 0).outcome = .ok) :
    (if c then s.writeControlThen w k else k s) = k (s.writeControlIf c w) := by
  unfold State.writeControlIf
  split
  · next hc => exact State.writeControlThen_of_ok (h hc)
  · rfl

end control

/-! ## ALARMEN -/

/-- ALARMEN's transactions: AF cleared, then Control written if the byte changes (42_alarm.md R186). -/
def State.alarmEnabled (e : Bool) (s : State) : State :=
  (s.modify regFlag (bclr · maskAF)).writeControlIf (bput s.cache maskAIE e ≠ s.cache) (bput s.cache maskAIE e)

section alarmEn

variable {s : State} {e : Bool} (h : s.allSucceed 2)
  (hc : bput s.cache maskAIE e ≠ s.cache → (s.choiceAt 2).outcome = .ok)
include h hc

/-- The choice that the Control write meets. -/
theorem State.alarmEnabled_control : bput s.cache maskAIE e ≠ s.cache →
    ((s.modify regFlag (bclr · maskAF)).choiceAt 0).outcome = .ok := fun hne => by
  rw [(State.performs_modify h).makes.choiceAt]
  exact hc hne

theorem State.performs_alarmEnabled : State.Performs
    ([⟨txRead regFlag 1, [s.interleave.x regFlag], true⟩,
        ⟨txWrite regFlag 1, [bclr (s.interleave.x regFlag) maskAF], true⟩]
      ++ if bput s.cache maskAIE e = s.cache then [] else [⟨txWrite regControl 1, [bput s.cache maskAIE e], true⟩])
    (fun b v => if bput s.cache maskAIE e ≠ s.cache ∧ b = regControl then bput s.cache maskAIE e
      else if b = regFlag then bclr v maskAF else v) s (s.alarmEnabled e) := by
  rw [← ite_not]
  exact (State.performs_modify h).trans (State.performs_writeControlIf (State.alarmEnabled_control h hc))

theorem State.alarmEnabled_cache : (s.alarmEnabled e).cache = bput s.cache maskAIE e := by
  rw [State.alarmEnabled, State.writeControlIf_cache (State.alarmEnabled_control h hc), State.modify_cache, ite_not]
  split
  · next he => exact he.symm
  · rfl

theorem State.alarmEnabled_clean : (s.alarmEnabled e).clean = s.clean :=
  (State.writeControlIf_clean (State.alarmEnabled_control h hc)).trans
    (congrArg (·.2.1) (s.modify_cacheView regFlag _))

theorem State.alarmEnBody_of_ok : State.alarmEnBody e s = (s.alarmEnabled e).succeed .none := by
  refine (State.readByteThen_writeByteThen (g := (bclr · maskAF)) h).trans ?_
  rw [State.modify_cache, ← ite_not]
  exact State.ite_writeControlThen (k := fun s => s.succeed .none) (State.alarmEnabled_control h hc)

end alarmEn

theorem exec_alarmEn_of_ok {s : State} {e : Bool} (hp : s.phase = .live) (hi : s.params.hasIrq = true)
    (hl : s.lock = .free) (h : s.allSucceed 2) (hc : bput s.cache maskAIE e ≠ s.cache → (s.choiceAt 2).outcome = .ok) :
    exec (.alarmEn e) s = .next ((((s.setLock .foreground).alarmEnabled e).succeed .none).setLock .free) := by
  rw [exec_alarmEn e hp hi, State.locked_free hl, State.alarmEnBody_of_ok (s := s.setLock .foreground) h hc]

/-- Settles O35: the stages of ALARMEN, on the state that holds the lock. -/
theorem alarmEnableWritesControlOnChange : Obligations.AlarmEnableWritesControlOnChange := by
  intro e s hp hi hl h c f
  have h2 : (s.setLock .foreground).allSucceed 2 := State.allSucceed_mono h (by omega)
  have hc : bput s.cache maskAIE e ≠ s.cache → (s.choiceAt 2).outcome = .ok := fun _ => h 2 (by omega)
  have hf : (s.setLock .foreground).interleave.x regFlag = f := by
    rw [State.interleave_eq_waited, State.waited_setLock_x]; rfl
  have hperf := State.performs_alarmEnabled (s := s.setLock .foreground) (e := e) h2 hc
  rw [hf] at hperf
  have hm := hperf.makes.underLock .free
  have hx {b : Addr} (hq : s.quiet b 3) : ((s.setLock .foreground).alarmEnabled e).x b
      = if c ≠ s.cache ∧ b = regControl then c else if b = regFlag then bclr (s.x b) maskAF else s.x b :=
    hperf.x b (State.quiet_mono hq (by split <;> simp))
  have hother {b : Addr} (hE : b ≠ regFlag) (hF : b ≠ regControl) (hq : s.quiet b 3) :
      ((s.setLock .foreground).alarmEnabled e).x b = s.x b := by
    rw [hx hq, if_neg (fun hb => hF hb.2), if_neg hE]
  refine ⟨_, exec_alarmEn_of_ok hp hi hl h2 hc, rfl, State.alarmEnabled_cache h2 hc, ?_,
    hm.trace.trans (List.append_assoc ..).symm, fun hu => ?_, fun r hE hF ht => hother hE hF (.inl ⟨ht, hE⟩),
    fun hu r hE hF => hother hE hF (.inr hu), hm.events, rfl, hm.shutdown, hm.destroyed, hm.params, hm.inputs,
    State.alarmEnabled_clean h2 hc, hm.pstate⟩
  · refine (hx (b := regControl) (.inl (by decide))).trans ?_
    simp only [and_true, ite_not, if_neg (by decide : regControl ≠ regFlag)]
    rfl
  · refine (hx (b := regFlag) (.inr hu)).trans ?_
    rw [if_neg (fun hb => absurd hb.2 (by decide)), if_pos rfl]
    rfl

/-- ALARMEN's transactions, and the cache it leaves. -/
theorem exec_alarmEn_makes {s : State} {e : Bool} (hp : s.phase = .live) (hi : s.params.hasIrq = true)
    (hl : s.lock = .free) (h : s.allSucceed 2) (hc : bput s.cache maskAIE e ≠ s.cache → (s.choiceAt 2).outcome = .ok) :
    ∃ u f, exec (.alarmEn e) s = .next u ∧ u.lock = .free ∧ u.cache = bput s.cache maskAIE e
      ∧ State.Makes ([⟨txRead regFlag 1, [f], true⟩, ⟨txWrite regFlag 1, [bclr f maskAF], true⟩]
        ++ if bput s.cache maskAIE e = s.cache then [] else [⟨txWrite regControl 1, [bput s.cache maskAIE e], true⟩])
        s u :=
  ⟨_, _, exec_alarmEn_of_ok hp hi hl h hc, rfl, State.alarmEnabled_cache (s := s.setLock .foreground) h hc,
    ((State.performs_alarmEnabled (s := s.setLock .foreground) h hc).makes.setResult _).underLock .free⟩

/-- Settles O36: after the first call the new byte is the cache's, so the second writes Flag only. -/
theorem enablingTwiceWritesControlOnce : Obligations.EnablingTwiceWritesControlOnce := by
  intro s hp hi hl h hoff
  have hchange : bput s.cache maskAIE true ≠ s.cache := by
    rw [Ne, bput_maskAIE_eq_iff, btst_maskAIE, hoff]
    decide
  obtain ⟨u, f, hu, hul, huc, hm⟩ :=
    exec_alarmEn_makes (e := true) hp hi hl (State.allSucceed_mono h (by omega)) fun _ => h 2 (by omega)
  rw [if_neg hchange] at hm
  have hkeep : bput u.cache maskAIE true = u.cache := by
    rw [huc]
    exact bset_bset s.cache maskAIE
  obtain ⟨v, g, hv, -, -, hn⟩ :=
    exec_alarmEn_makes (e := true) (hm.phase.trans hp) (hm.params ▸ hi) hul (hm.allSucceed h)
      fun hne => absurd hkeep hne
  rw [if_pos hkeep] at hn
  exact ⟨u, v, _, hu, hv, (hm.trans hn).trace, rfl, rfl, rfl⟩

end Sys2Proof.Machine
end

section
/-! PROOFS. SETALARM where no transaction fails (42_alarm.md R185): its six steps one after the other, the whole trace,
and every register that the other agents leave alone. -/

namespace Sys2Proof.Machine

/-- Taking AIE out and putting it in is putting it in (42_alarm.md R185 steps 1 and 6). -/
theorem bset_bclr (b m : Byte) : bset (bclr b m) m = bset b m := by
  refine BitVec.eq_of_getLsbD_eq fun i hi => ?_
  rw [getLsbD_bset, getLsbD_bset, getLsbD_bclr _ _ hi]
  cases m.getLsbD i <;> simp

/-! ## Steps 2 to 5 -/

/-- Steps 2 and 3: the minute and hour bytes, then day-of-month mode. -/
def State.alarmModeSet (a : AlarmSpec) (s : State) : State :=
  (s.memWrite regAlarmMin [bin2bcd a.minute, bin2bcd a.hour] alarmPair_inSpace).2.modify regExtension
    (bput · maskWADA wadaMday)

/-- Steps 2 to 4: the day byte follows. -/
def State.alarmStored (a : AlarmSpec) (s : State) : State :=
  ((s.alarmModeSet a).memWrite regAlarmDay [alarmDayByte a.day] (inSpace_byte _)).2

/-- Steps 2 to 5: the alarm stored, then AF cleared. -/
def State.alarmProgrammed (a : AlarmSpec) (s : State) : State :=
  (s.alarmStored a).modify regFlag (bclr · maskAF)

/-- The transactions of steps 2 to 5, `flag` being the Flag byte read and `ext` the Extension byte. -/
def programTrace (a : AlarmSpec) (ext flag : Byte) : List Transaction :=
  [⟨txWrite regAlarmMin 2, [bin2bcd a.minute, bin2bcd a.hour], true⟩, ⟨txRead regExtension 1, [ext], true⟩,
    ⟨txWrite regExtension 1, [bput ext maskWADA wadaMday], true⟩, ⟨txWrite regAlarmDay 1, [alarmDayByte a.day], true⟩,
    ⟨txRead regFlag 1, [flag], true⟩, ⟨txWrite regFlag 1, [bclr flag maskAF], true⟩]

/-- What steps 2 to 5 make of the byte `v` at `b`. -/
def programmedByte (a : AlarmSpec) (b : Addr) (v : Byte) : Byte :=
  if b = regFlag then bclr v maskAF
  else if b = regAlarmDay then alarmDayByte a.day
  else if b = regExtension then bput v maskWADA wadaMday
  else if b = regAlarmMin then bin2bcd a.minute
  else if b = regAlarmHour then bin2bcd a.hour
  else v

/-- Outside SETALARM's stores steps 2 to 5 leave a byte as it is. -/
theorem programmedByte_other {p : Params} {a : AlarmSpec} {b : Addr} (hb : mayStore p (.setAlarm a) b = false)
    (v : Byte) : programmedByte a b v = v := by
  simp only [mayStore, Bool.or_eq_false_iff, beq_eq_false_iff_ne] at hb
  simp [programmedByte, regFlag, regAlarmDay, regExtension, regAlarmMin, regAlarmHour, hb]

section program

variable {s : State} (a : AlarmSpec)

/-- Extension is out of the other agents' reach, so step 3 reads what it held before step 2. -/
theorem State.performs_alarmModeSet (h : s.allSucceed 3) :
    State.Performs ((programTrace a (s.x regExtension) 0).take 3)
      (fun b v => if b = regExtension then bput v maskWADA wadaMday
        else if b = regAlarmMin then bin2bcd a.minute else if b = regAlarmHour then bin2bcd a.hour else v)
      s (s.alarmModeSet a) := by
  have hpair := State.performs_alarmPair (bin2bcd a.minute) (bin2bcd a.hour) (h 0 (by omega))
  have hmode := State.performs_modify (a := regExtension) (g := (bput · maskWADA wadaMday)) (hpair.makes.allSucceed h)
  rw [State.interleave_x_of_quiet (.inl (by decide)), hpair.x regExtension (.inl (by decide)), if_neg (by decide),
    if_neg (by decide)] at hmode
  obtain ⟨hm, hx⟩ := hpair.trans hmode
  refine ⟨hm, fun b hq => (hx b hq).trans ?_⟩
  by_cases hb : b = regExtension
  · rw [if_pos hb, if_pos hb, hb, if_neg (by decide), if_neg (by decide)]
  · rw [if_neg hb, if_neg hb]

theorem State.performs_alarmStored (h : s.allSucceed 4) :
    State.Performs ((programTrace a (s.x regExtension) 0).take 4)
      (fun b v => if b = regAlarmDay then alarmDayByte a.day
        else if b = regExtension then bput v maskWADA wadaMday
        else if b = regAlarmMin then bin2bcd a.minute else if b = regAlarmHour then bin2bcd a.hour else v)
      s (s.alarmStored a) :=
  have hmode := State.performs_alarmModeSet a (State.allSucceed_mono h (by omega))
  hmode.trans (State.performs_memWriteByte regAlarmDay (alarmDayByte a.day) (hmode.makes.next_ok h))

/-- Flag is in the other agents' reach: step 5 reads what it held before only if nobody steps in between. -/
theorem State.performs_alarmProgrammed (h : s.allSucceed 6) :
    ∃ flag, State.Performs (programTrace a (s.x regExtension) flag) (programmedByte a) s (s.alarmProgrammed a)
      ∧ (s.undisturbed 6 → flag = s.x regFlag) := by
  have hstored := State.performs_alarmStored a (State.allSucceed_mono h (by omega))
  obtain ⟨hm, hx⟩ := hstored.trans
    (State.performs_modify (a := regFlag) (g := (bclr · maskAF)) (hstored.makes.allSucceed h))
  refine ⟨_, ⟨hm, fun b hq => (hx b hq).trans ?_⟩, fun hu => ?_⟩
  · by_cases hb : b = regFlag
    · rw [programmedByte, if_pos hb, if_pos hb, hb]; rfl
    · rw [programmedByte, if_neg hb, if_neg hb]
  · rw [State.interleave_x_of_quiet (hstored.makes.quiet (.inr (State.undisturbed_mono hu (by simp [programTrace])))),
      hstored.x regFlag (.inr (State.undisturbed_mono hu (by simp [programTrace])))]
    rfl

theorem State.alarmProgrammed_cacheView (s : State) : (s.alarmProgrammed a).cacheView = s.cacheView :=
  (State.modify_cacheView _ _ _).trans <| (State.memWrite_cacheView _ _ _ _).trans <|
    (State.modify_cacheView _ _ _).trans (State.memWrite_cacheView _ _ _ _)

theorem State.alarmProgrammed_cache (s : State) : (s.alarmProgrammed a).cache = s.cache :=
  congrArg Prod.fst (s.alarmProgrammed_cacheView a)

theorem State.programAlarm_of_ok (h : s.allSucceed 6) :
    State.programAlarm a s = (s.alarmProgrammed a).enableAlarm a.enabled := by
  have hpair := State.performs_alarmPair (bin2bcd a.minute) (bin2bcd a.hour) (h 0 (by omega))
  have hmode := State.performs_alarmModeSet a (State.allSucceed_mono h (by omega))
  have hstored := State.performs_alarmStored a (State.allSucceed_mono h (by omega))
  calc State.programAlarm a s
      = _ := State.writeThen_of_ok (h 0 (by omega))
    _ = _ := State.readByteThen_writeByteThen (g := (bput · maskWADA wadaMday))
        (hpair.makes.allSucceed (State.allSucceed_mono h (by simp)))
    _ = _ := State.writeThen_of_ok (hmode.makes.next_ok (State.allSucceed_mono h (by simp [programTrace])))
    _ = _ := State.readByteThen_writeByteThen (g := (bclr · maskAF)) (hstored.makes.allSucceed h)

end program

/-! ## The six steps -/

/-- Step 1: the alarm interrupt disabled where the cache has it enabled. -/
def State.alarmDisabled (s : State) : State :=
  s.writeControlIf (btst s.cache maskAIE = true) (bclr s.cache maskAIE)

/-- Steps 1 to 6; the byte that step 6 writes is the old one with AIE, whether or not step 1 took AIE out. -/
def State.alarmSet (a : AlarmSpec) (s : State) : State :=
  (s.alarmDisabled.alarmProgrammed a).writeControlIf (a.enabled = true) (bset s.cache maskAIE)

/-- The whole trace of SETALARM; `flag` is the Flag byte read. -/
def alarmTrace (a : AlarmSpec) (cache ext flag : Byte) : List Transaction :=
  (if btst cache maskAIE = true then [⟨txWrite regControl 1, [bclr cache maskAIE], true⟩] else [])
    ++ programTrace a ext flag
    ++ (if a.enabled = true then [⟨txWrite regControl 1, [bset cache maskAIE], true⟩] else [])

theorem alarmTrace_length (a : AlarmSpec) (cache ext flag : Byte) : (alarmTrace a cache ext flag).length
    = 6 + (if cache.getLsbD 3 then 1 else 0) + (if a.enabled then 1 else 0) := by
  rw [← btst_maskAIE, alarmTrace, List.length_append, List.length_append, apply_ite List.length, apply_ite List.length,
    Nat.add_comm 6]
  rfl

theorem alarmTrace_length_le (a : AlarmSpec) (cache ext flag : Byte) : (alarmTrace a cache ext flag).length ≤ 8 := by
  rw [alarmTrace_length]
  split <;> split <;> simp

section whole

variable {s : State} (a : AlarmSpec) (h : s.allSucceed 8)
include h

theorem State.performs_alarmDisabled : State.Performs
    (if btst s.cache maskAIE = true then [⟨txWrite regControl 1, [bclr s.cache maskAIE], true⟩] else [])
    (fun b v => if btst s.cache maskAIE = true ∧ b = regControl then bclr s.cache maskAIE else v) s
    s.alarmDisabled :=
  State.performs_writeControlIf fun _ => h 0 (by omega)

/-- With AIE out already, the cache without AIE is the cache. -/
theorem State.alarmDisabled_cache : s.alarmDisabled.cache = bclr s.cache maskAIE := by
  rw [State.alarmDisabled, State.writeControlIf_cache fun _ => h 0 (by omega)]
  split
  · rfl
  · next hoff => exact ((bput_maskAIE_eq_iff s.cache false).mpr (by simpa using hoff)).symm

theorem State.alarmDisabled_allSucceed : s.alarmDisabled.allSucceed 7 :=
  (State.performs_alarmDisabled h).makes.allSucceed (State.allSucceed_mono h (by split <;> simp))

/-- The choice that step 6 meets. -/
theorem State.alarmProgrammed_control : ((s.alarmDisabled.alarmProgrammed a).choiceAt 0).outcome = .ok := by
  obtain ⟨flag, hprog, -⟩ := State.performs_alarmProgrammed a
    (State.allSucceed_mono (State.alarmDisabled_allSucceed h) (by omega))
  exact hprog.makes.next_ok (State.alarmDisabled_allSucceed h)

/-- Extension is read as it was before, Flag only if nobody steps in between. -/
theorem State.performs_alarmSet : ∃ flag,
    State.Performs (alarmTrace a s.cache (s.x regExtension) flag)
      (fun b v => if a.enabled = true ∧ b = regControl then bset s.cache maskAIE
        else programmedByte a b (if btst s.cache maskAIE = true ∧ b = regControl then bclr s.cache maskAIE else v))
      s (s.alarmSet a)
    ∧ (s.undisturbed 8 → flag = s.x regFlag) := by
  have hdis := State.performs_alarmDisabled h
  obtain ⟨flag, hprog, hflag⟩ := State.performs_alarmProgrammed a
    (State.allSucceed_mono (State.alarmDisabled_allSucceed h) (by omega))
  rw [hdis.x regExtension (.inl (by decide)), if_neg (by simp [regExtension, regControl])] at hprog
  refine ⟨flag, (hdis.trans hprog).trans (State.performs_writeControlIf fun _ => State.alarmProgrammed_control a h),
    fun hu => ?_⟩
  have hrest := hdis.makes.undisturbed (State.undisturbed_mono hu (m := _ + 7) (by split <;> simp))
  rw [hflag (State.undisturbed_mono hrest (by omega)),
    hdis.x regFlag (.inr (State.undisturbed_mono hu (by split <;> simp))), if_neg (by simp [regFlag, regControl])]

theorem State.alarmSet_cache : (s.alarmSet a).cache = bput s.cache maskAIE a.enabled := by
  rw [State.alarmSet, State.writeControlIf_cache fun _ => State.alarmProgrammed_control a h,
    State.alarmProgrammed_cache, State.alarmDisabled_cache h]
  rfl

theorem State.alarmSet_clean : (s.alarmSet a).clean = s.clean :=
  (State.writeControlIf_clean fun _ => State.alarmProgrammed_control a h).trans <|
    (congrArg (·.2.1) (State.alarmProgrammed_cacheView a _)).trans <|
      State.writeControlIf_clean fun _ => h 0 (by omega)

theorem State.alarmSet_x {b : Addr} (hq : s.quiet b 8) :
    (s.alarmSet a).x b = if a.enabled = true ∧ b = regControl then bset s.cache maskAIE else programmedByte a b
      (if btst s.cache maskAIE = true ∧ b = regControl then bclr s.cache maskAIE else s.x b) := by
  obtain ⟨flag, hperf, -⟩ := State.performs_alarmSet a h
  exact hperf.x b (State.quiet_mono hq (alarmTrace_length_le ..))

theorem State.alarmSet_x_of_ne_control {b : Addr} (hb : b ≠ regControl) (hq : s.quiet b 8) :
    (s.alarmSet a).x b = programmedByte a b (s.x b) := by
  rw [State.alarmSet_x a h hq, if_neg fun hc => hb hc.2, if_neg fun hc => hb hc.2]

/-- Control holds the cache where step 1 or step 6 writes it. -/
theorem State.alarmSet_x_control : (s.alarmSet a).x regControl
    = if btst s.cache maskAIE = true ∨ a.enabled = true then bput s.cache maskAIE a.enabled else s.x regControl := by
  rw [State.alarmSet_x a h (.inl (by decide))]
  cases a.enabled <;> cases btst s.cache maskAIE <;> rfl

theorem State.setAlarmBody_of_ok : State.setAlarmBody a s = (s.alarmSet a).succeed .none := by
  calc State.setAlarmBody a s
      = State.programAlarm a s.alarmDisabled :=
        State.ite_writeControlThen (k := State.programAlarm a) fun _ => h 0 (by omega)
    _ = (s.alarmDisabled.alarmProgrammed a).enableAlarm a.enabled :=
        State.programAlarm_of_ok a (State.allSucceed_mono (State.alarmDisabled_allSucceed h) (by omega))
    _ = (s.alarmSet a).succeed .none := by
        rw [State.enableAlarm, State.alarmProgrammed_cache, State.alarmDisabled_cache h, bset_bclr]
        exact State.ite_writeControlThen (k := (·.succeed .none)) fun _ => State.alarmProgrammed_control a h

end whole

theorem exec_setAlarm_of_ok {s : State} {a : AlarmSpec} (hp : s.phase = .live) (hi : s.params.hasIrq = true)
    (hl : s.lock = .free) (hv : validAlarm a = true) (h : s.allSucceed 8) :
    exec (.setAlarm a) s = .next ((((s.setLock .foreground).alarmSet a).succeed .none).setLock .free) := by
  rw [exec_setAlarm hp hi hv, State.locked_free hl, State.setAlarmBody_of_ok (s := s.setLock .foreground) a h]

theorem validAlarm_of_le {a : AlarmSpec} (hm : a.minute ≤ 59) (hh : a.hour ≤ 23) (hd : a.day ≤ 31) :
    validAlarm a = true := by
  simp [validAlarm, hm, hh, hd]

/-- Settles O34: the trace of the six steps, with the Flag byte as nobody has changed it. -/
theorem setAlarmIssuesItsSixSteps : Obligations.SetAlarmIssuesItsSixSteps := by
  intro a s hp hi hl hm hh hd h hu
  obtain ⟨flag, hperf, hflag⟩ := State.performs_alarmSet (s := s.setLock .foreground) a h
  refine ⟨_, exec_setAlarm_of_ok hp hi hl (validAlarm_of_le hm hh hd) h,
    State.alarmSet_x_of_ne_control (s := s.setLock .foreground) (b := regFlag) a h (by decide) (.inr hu), ?_⟩
  refine hperf.makes.trace.trans ?_
  rw [hflag hu, alarmTrace, State.setLock_cache, btst_maskAIE]
  simp only [List.append_assoc]
  rfl

/-- Settles O33: what the steps make of each register, and as many choices used up as the trace is long. -/
theorem setAlarmProgramsTheAlarm : Obligations.SetAlarmProgramsTheAlarm := by
  intro a s hp hi hl hm hh hd h n
  obtain ⟨flag, hperf, -⟩ := State.performs_alarmSet (s := s.setLock .foreground) a h
  have hmakes := hperf.makes.underLock .free
  have hlen : (alarmTrace a s.cache (s.x regExtension) flag).length = n := alarmTrace_length ..
  have hset {b : Addr} (hb : b ≠ regControl) (hq : s.quiet b 8) :
      ((s.setLock .foreground).alarmSet a).x b = programmedByte a b (s.x b) :=
    State.alarmSet_x_of_ne_control (s := s.setLock .foreground) a h hb hq
  have hother {b : Addr} (hb : mayStore s.params (.setAlarm a) b = false) (hq : s.quiet b 8) :
      ((s.setLock .foreground).alarmSet a).x b = s.x b :=
    (hset (by rintro rfl; simp [mayStore, regControl] at hb) hq).trans (programmedByte_other hb _)
  refine ⟨_, exec_setAlarm_of_ok hp hi hl (validAlarm_of_le hm hh hd) h, rfl,
    hset (b := regAlarmMin) (by decide) (.inl (by decide)), hset (b := regAlarmHour) (by decide) (.inl (by decide)),
    hset (b := regAlarmDay) (by decide) (.inl (by decide)), hset (b := regExtension) (by decide) (.inl (by decide)),
    State.alarmSet_cache a h, ?_, fun r hr ht => hother hr (.inl ⟨ht, ?_⟩), fun hu r hr => hother hr (.inr hu),
    hlen ▸ hmakes.choices, hlen ▸ hmakes.drawCount, hmakes.events, rfl, hmakes.shutdown, hmakes.destroyed,
    hmakes.params, hmakes.inputs, State.alarmSet_clean a h, hmakes.pstate⟩
  · refine (State.alarmSet_x_control (s := s.setLock .foreground) a h).trans ?_
    rw [btst_maskAIE, ← State.alarmSet_cache (s := s.setLock .foreground) a h]
    rfl
  · rintro rfl
    simp [mayStore, regFlag] at hr

end Sys2Proof.Machine
end

section
/-! PROOFS. Admission (43_device.md R210) and the checks of supplied values (R212,
42_alarm.md R185). -/

namespace Sys2Proof.Machine

/-! ## Admission by phase -/

/-- An operation that runs under the lock and one that waits for it both reach a next state. -/
theorem State.locked_next (s : State) (i : Instr) (body : State → State) : ∃ t, s.locked i body = .next t := by
  rcases State.locked_cases s i body with ⟨-, e⟩ | ⟨-, e⟩
  · exact ⟨_, e⟩
  · exact ⟨_, e⟩

/-- With a line or without one, an admitted alarm operation reaches a next state (42_alarm.md R180). -/
theorem State.whenAlarm_eq {s t : State} {go : Host.Outcome State Fault Refusal} (h : go = .next t) :
    ∃ u, s.whenAlarm go = s.whenLive (.next u) := by
  subst h
  unfold State.whenAlarm
  split
  · exact ⟨_, rfl⟩
  · exact ⟨_, rfl⟩

/-- Whether an I/O operation reaches a next state is decided by the phase alone. -/
theorem exec_liveIo {i : Instr} (h : isLiveIo i = true) (s : State) : ∃ t, exec i s = s.whenLive (.next t) := by
  cases i with
  | bcd2bin _ | bin2bcd _ | decode _ | encode _ | btst _ _ | bset _ _ | bclr _ _ | init | shutdown => cases h
  | getTime =>
    obtain ⟨t, e⟩ := s.locked_next .getTime State.getTimeBody
    exact ⟨t, congrArg s.whenLive e⟩
  | setTime v =>
    obtain ⟨t, e⟩ := s.locked_next (.setTime v) (State.setTimeBody v)
    simp only [exec, execSetTime, e]
    split
    · exact ⟨_, rfl⟩
    · exact ⟨_, rfl⟩
  | getAlarm => exact State.whenAlarm_eq (s.locked_next .getAlarm State.getAlarmBody).choose_spec
  | setAlarm a =>
    obtain ⟨t, e⟩ := s.locked_next (.setAlarm a) (State.setAlarmBody a)
    simp only [exec, execSetAlarm, e]
    split
    · exact State.whenAlarm_eq rfl
    · exact State.whenAlarm_eq rfl
  | alarmEn b => exact State.whenAlarm_eq (s.locked_next (.alarmEn b) (State.alarmEnBody b)).choose_spec

theorem State.whenLive_fresh {s : State} (h : s.phase = .fresh) (go : Host.Outcome State Fault Refusal) :
    s.whenLive go = .refused .notInitialised := by
  simp [State.whenLive, h]

theorem State.whenLive_destroyed {s : State} (h : s.phase = .destroyed) (go : Host.Outcome State Fault Refusal) :
    s.whenLive go = .refused .deviceDestroyed := by
  simp [State.whenLive, h]

theorem State.whenFresh_live {s : State} (h : s.phase = .live) (go : Host.Outcome State Fault Refusal) :
    s.whenFresh go = .refused .alreadyInitialised := by
  simp [State.whenFresh, h]

theorem State.whenFresh_destroyed {s : State} (h : s.phase = .destroyed) (go : Host.Outcome State Fault Refusal) :
    s.whenFresh go = .refused .deviceDestroyed := by
  simp [State.whenFresh, h]

theorem State.whenNotDestroyed_destroyed {s : State} (h : s.phase = .destroyed)
    (go : Host.Outcome State Fault Refusal) : s.whenNotDestroyed go = .refused .deviceDestroyed := by
  simp [State.whenNotDestroyed, h]

/-- A pure operation is admitted in every phase (40_timecodec.md R130, 41_statusregs.md R160). -/
theorem exec_pure {i : Instr} (h : isPure i = true) (s : State) : ∃ t, exec i s = .next t := by
  cases i with
  | bcd2bin _ | bin2bcd _ | decode _ | encode _ | btst _ _ | bset _ _ | bclr _ _ => exact ⟨_, rfl⟩
  | getTime | setTime _ | getAlarm | setAlarm _ | alarmEn _ | init | shutdown => cases h

/-- A frame whose `c0` is no opcode is rejected (30_encoding.md R104). -/
theorem step_of_unknown {s : State} {f : Frame} {rest : List Input} (h : s.inputs = .issue f :: rest)
    (hf : ∀ i : Instr, i.opcode ≠ frameByte f 0) : step s = rejectFrame (s.setInputs rest) := by
  simp [step, State.nextInput, State.advanceInput, h, runFrame, decodeFrame_of_unknown hf]

/-- Settles O18: the phase alone decides, cell by cell. -/
theorem admissionByPhase : Obligations.AdmissionByPhase := by
  refine ⟨fun _ => rfl, fun i s hi => exec_pure hi s,
    fun s => ⟨fun hp => ?_, (State.whenFresh_live · _), (State.whenFresh_destroyed · _)⟩, fun i s hi => ?_,
    fun s => ⟨fun hp => ?_, (State.whenNotDestroyed_destroyed · _)⟩, fun s f rest hs hf => ?_⟩
  · obtain ⟨t, e⟩ := s.locked_next .init State.initBody
    exact ⟨t, (State.whenFresh_fresh hp _).trans e⟩
  · obtain ⟨t, e⟩ := exec_liveIo hi s
    rw [e]
    exact ⟨(State.whenLive_fresh · _), fun hp => ⟨t, State.whenLive_live hp _⟩, (State.whenLive_destroyed · _)⟩
  · rw [exec_shutdown hp]
    split
    · exact ⟨_, rfl⟩
    · exact ⟨_, rfl⟩
  · rw [step_of_unknown hs hf]
    exact ⟨fun hp => ⟨_, State.whenNotDestroyed_of_ne (s := s.setInputs rest) hp _, rfl⟩,
      fun hp => State.whenNotDestroyed_destroyed (s := s.setInputs rest) hp _⟩

/-! ## Supplied values out of range -/

/-- Settles O20: each check comes before the lock is taken. -/
theorem suppliedValuesOutOfRangeChangeNothing : Obligations.SuppliedValuesOutOfRangeChangeNothing := by
  refine ⟨fun t s hp hv => ?_, fun a s hp hi hr => ?_⟩
  · have hs : ¬validSupplied t = true := Bool.eq_false_iff.mp hv
    exact (State.whenLive_live hp _).trans (if_neg hs)
  · have ha : ¬validAlarm a = true := by
      simp only [validAlarm, Bool.and_eq_true, decide_eq_true_eq]
      omega
    exact (State.whenAlarm_live hp hi _).trans (if_neg ha)

end Sys2Proof.Machine
end

section
/-! PROOFS. GETTIME as one block read (43_device.md R211), and SHUTDOWN by what becomes of a scheduled task (R214). -/

namespace Sys2Proof.Machine

/-! ## GETTIME -/

theorem State.stepsBefore_one (s : State) : s.stepsBefore 1 = (s.choiceAt 0).steps := by
  simp [State.stepsBefore]

/-- The seven bytes from the seconds register upward are the time image's (30_encoding.md R91). -/
theorem Memory.readBlock_time (m : Memory) : Memory.readBlock m regSec.toNat 7 = imageBytes (Memory.timeImage m) := rfl

theorem imageOfBytes_imageBytes (r : TimeImage) : imageOfBytes (imageBytes r) = r := rfl

section getTime

variable {s : State}

/-- A first read that fails ends its operation at once, with nothing stored (43_device.md R218). -/
theorem State.readThen_of_first_fails {a : Addr} {n : Nat} {i : inSpace a n} {k : List Byte → State → State}
    (h : (s.choiceAt 0).outcome ≠ .ok) :
    s.readThen a n i k = s.endOfReads 1 [⟨txRead a n, [], false⟩] (.error (.transportError (txRead a n))) := by
  rw [State.readThen_of_fails h, State.memRead_of_not_ok _ _ _ h, State.interleave_eq_waited,
    State.endOfReads, ← State.waited_trace s 1]
  rfl

theorem State.getTimeBody_of_fails (h : (s.choiceAt 0).outcome ≠ .ok) : s.getTimeBody
    = s.endOfReads 1 [⟨txRead regSec 7, [], false⟩] (.error (.transportError (txRead regSec 7))) :=
  State.readThen_of_first_fails h

theorem State.getTimeBody_of_ok (h : (s.choiceAt 0).outcome = .ok) : s.getTimeBody
    = s.endOfReads 1 [⟨txRead regSec 7, imageBytes (Memory.timeImage (s.waited 1).regs), true⟩]
      (decodeResult (Memory.timeImage (s.waited 1).regs)) := by
  rw [State.getTimeBody, State.readThen_of_ok h, State.memRead_of_ok _ _ _ h, State.interleave_eq_waited,
    Memory.readBlock_time, imageOfBytes_imageBytes, State.endOfReads, ← State.waited_trace s 1]
  rfl

/-- Under the lock the registers before a transaction are as without it. -/
theorem State.waited_setLock_regs (l : Lock) (n : Nat) :
    ((s.setLock l).waited n).regs = (s.envSteps (s.stepsBefore n)).regs :=
  congrArg (·.regs) (State.envSteps_setLock s (s.stepsBefore n) l)

theorem exec_getTime (hp : s.phase = .live) (hl : s.lock = .free) :
    exec .getTime s = .next ((State.getTimeBody (s.setLock .foreground)).setLock .free) :=
  (State.whenLive_live hp _).trans (State.locked_free hl _ _)

end getTime

/-- Settles O22: the outcome of the one read decides between the two paths. -/
theorem getTimeReadsOneBlock : Obligations.GetTimeReadsOneBlock := by
  refine ⟨fun f => decodeFrame_getTime, fun s hp hl => ?_⟩
  rw [exec_getTime hp hl]
  cases h : (s.choiceAt 0).outcome with
  | fails stored =>
    rw [State.getTimeBody_of_fails (by simp [h]), State.endOfReads_underLock hl, State.stepsBefore_one]
    rfl
  | ok =>
    rw [State.getTimeBody_of_ok (by simp [h]), State.endOfReads_underLock hl, State.waited_setLock_regs,
      State.stepsBefore_one]
    rfl

/-! ## SHUTDOWN -/

/-- Whether or not SHUTDOWN awaits a pass, the line ends masked and the lock free, and neither Control nor the cache has
changed (43_device.md R214). -/
theorem State.teardown_leaves (s : State) : s.teardown.pstate = .disarmed ∧ s.teardown.lock = .free
    ∧ s.teardown.cache = s.cache ∧ s.teardown.x regControl = s.x regControl := by
  obtain ⟨n, l, u, hu, e⟩ := s.teardown_run
  have hcache : u.cache = s.cache :=
    congrArg Prod.fst (hu.cacheView_eq (by simp [passTransactions, txRead, txWrite, regControl]))
  have hx : u.x regControl = s.x regControl :=
    hu.x_of_misses (listedTransactions_misses (p := s.params) (i := .shutdown) rfl) (by decide) (by decide)
  rw [e]
  exact ⟨rfl, rfl, hcache, hx⟩

/-- SHUTDOWN with the lock free, by what becomes of a scheduled task (R214; log entry 16). -/
theorem State.teardown_eq {s : State} (hl : s.lock = .free) : s.teardown =
    if s.pstate = .handling then
      if (s.choiceAt 0).awaitTask then
        { State.drainPass { s.skipChoices 1 with shutdown := true } with destroyed := true, result := some (.ok .none) }
      else { s.skipChoices 1 with
              shutdown := true, pstate := .disarmed, destroyed := true, result := some (.ok .none) }
    else { s with shutdown := true, pstate := .disarmed, destroyed := true, result := some (.ok .none) } := by
  have hlock : s.setShutdown.setLock .free = s.setShutdown := by rw [← hl]; rfl
  rcases s.teardown_cases with ⟨hp, e⟩ | ⟨hp, ha, e⟩ | ⟨hp, ha, e⟩
  · rw [if_neg hp, e, ← hl]
    rfl
  · rw [State.nextChoice_eq] at ha
    rw [if_pos hp, if_neg (by simp [ha]), e, hlock, State.advanceChoice_eq_skip]
    rfl
  · rw [State.nextChoice_eq] at ha
    rw [if_pos hp, if_pos ha, e, hlock, State.advanceChoice_eq_skip]
    rfl

theorem State.phase_ne_destroyed {s : State} (h : s.destroyed = false) : s.phase ≠ .destroyed := by
  unfold State.phase
  rw [h]
  cases s.pstate <;> simp

/-- Settles O29: the three paths of the teardown, and what every one of them leaves. -/
theorem shutdownDestroysTheDevice : Obligations.ShutdownDestroysTheDevice := by
  refine ⟨fun f => decodeFrame_shutdown, fun s hd hl => ?_⟩
  have he : exec .shutdown s = .next s.teardown := by
    rw [exec_shutdown (State.phase_ne_destroyed hd), if_pos hl]
  obtain ⟨hshut, hdes⟩ := s.teardown_ends
  obtain ⟨hpst, hlock, hcache, hx⟩ := s.teardown_leaves
  exact ⟨by rw [he, State.teardown_eq hl], _, he, hshut, hpst, hdes, hlock, hcache, hx⟩

end Sys2Proof.Machine
end

section
/-! PROOFS. What a write makes of each register, whatever its outcome, and a Control register read and written back:
the two rules SETTIME's stages are made of. -/

namespace Sys2Proof.Machine

/-! ## A write, byte by byte -/

/-- A write with outcome `o` stores byte `k` of its block (20_memory.md R66, R69). -/
def storesByte (o : TxOutcome) (k : Nat) : Bool :=
  match o with
  | .ok => true
  | .fails stored => stored.getD k false

/-- What a write of `vs` at `a` with outcome `o` makes of the byte `v` at `b`. -/
def writtenByte (o : TxOutcome) (a : Addr) (vs : List Byte) (b : Addr) (v : Byte) : Byte :=
  if a.toNat ≤ b.toNat ∧ b.toNat < a.toNat + vs.length ∧ storesByte o (b.toNat - a.toNat) = true then
    vs.getD (b.toNat - a.toNat) 0
  else v

theorem writtenByte_of_misses {o : TxOutcome} {a b : Addr} {vs : List Byte}
    (h : TxInfo.misses ⟨a, vs.length, .write⟩ b) (v : Byte) : writtenByte o a vs b v = v := by
  simp only [TxInfo.misses] at h
  exact if_neg (by omega)

/-- A one-byte write meets its own address only. -/
theorem writtenByte_one (o : TxOutcome) (a b : Addr) (w v : Byte) :
    writtenByte o a [w] b v = if b = a ∧ storesByte o 0 = true then w else v := by
  by_cases h : b = a
  · subst h
    simp [writtenByte]
  · rw [writtenByte_of_misses (TxInfo.misses_of_ne _ h), if_neg fun c => h c.1]

/-- The time block misses every register but the time registers. -/
theorem writtenByte_time {b : Addr} (h : isTimeRegister b = false) (o : TxOutcome) (r : TimeImage) (v : Byte) :
    writtenByte o regSec (imageBytes r) b v = v :=
  writtenByte_of_misses (TxInfo.misses_timeBlock h) v

theorem Memory.read_writeSome (ks : List Bool) (vs : List Byte) (m : Memory) (a b : Nat) :
    Memory.read (Memory.writeSome m a ks vs) b
      = if a ≤ b ∧ b < a + vs.length ∧ ks.getD (b - a) false = true then vs.getD (b - a) 0 else Memory.read m b := by
  by_cases h : a ≤ b ∧ b < a + vs.length
  · obtain ⟨k, rfl⟩ := Nat.exists_eq_add_of_le h.1
    have hk : k < vs.length := by omega
    rw [Memory.read_writeSome_inside ks vs m a k hk, Nat.add_sub_cancel_left, List.getD_eq_getElem _ _ hk]
    simp [hk]
  · rw [Memory.read_writeSome_other _ _ _ _ _ (by omega), if_neg (by tauto)]

section writes

variable {s : State} {b : Addr}

/-- The registers after a write of either outcome. -/
theorem State.memWrite_x (s : State) (a : Addr) (vs : List Byte) (i : inSpace a vs.length) (b : Addr) :
    (s.memWrite a vs i).2.x b = writtenByte (s.choiceAt 0).outcome a vs b (s.interleave.x b) := by
  cases ho : (s.choiceAt 0).outcome with
  | fails stored =>
    rw [State.memWrite_of_fails a vs i ho]
    exact Memory.read_writeSome stored vs _ _ _
  | ok =>
    rw [State.memWrite_of_ok a vs i ho, Memory.writeBlock_eq_writeSome]
    refine (Memory.read_writeSome _ vs _ _ _).trans ?_
    unfold writtenByte
    refine if_congr (and_congr_right fun _ => and_congr_right fun hb => ?_) rfl rfl
    rw [List.getD_replicate _ (by omega)]
    rfl

theorem State.makes_memWrite_outcome (a : Addr) (vs : List Byte) (i : inSpace a vs.length) :
    State.Makes [⟨txWrite a vs.length, vs, decide ((s.choiceAt 0).outcome = .ok)⟩] s (s.memWrite a vs i).2 := by
  cases ho : (s.choiceAt 0).outcome with
  | ok => exact State.makes_memWrite a vs i ho
  | fails stored =>
    rw [State.memWrite_of_fails a vs i ho]
    exact State.makes_record _ (by simp [ho])

theorem State.performs_memWrite (a : Addr) (vs : List Byte) (i : inSpace a vs.length) :
    State.Performs [⟨txWrite a vs.length, vs, decide ((s.choiceAt 0).outcome = .ok)⟩]
      (writtenByte (s.choiceAt 0).outcome a vs) s (s.memWrite a vs i).2 :=
  ⟨State.makes_memWrite_outcome a vs i, fun b hq => by
    rw [State.memWrite_x, State.interleave_x_of_quiet hq]⟩

theorem State.memWrite_fst (a : Addr) (vs : List Byte) (i : inSpace a vs.length) :
    (s.memWrite a vs i).1 = decide ((s.choiceAt 0).outcome = .ok) := by
  cases ho : (s.choiceAt 0).outcome with
  | ok => rw [State.memWrite_of_ok a vs i ho]; rfl
  | fails stored => rw [State.memWrite_of_fails a vs i ho]; rfl

theorem State.writeControl_of_not_ok (v : Byte) (ho : (s.choiceAt 0).outcome ≠ .ok) :
    s.writeControl v = (false, (s.memWrite regControl [v] (inSpace_byte _)).2.setClean false) := by
  cases hf : (s.choiceAt 0).outcome with
  | ok => exact absurd hf ho
  | fails stored => simp only [State.writeControl, State.memWrite_of_fails _ _ _ hf]

/-- The cache takes the byte of a Control write that succeeds; one that fails ends `clean` (20_memory.md R82). -/
theorem State.writeControl_cacheView (s : State) (v : Byte) : (s.writeControl v).2.cacheView
    = if (s.choiceAt 0).outcome = .ok then (v, s.clean, true) else (s.cache, false, s.synced) := by
  obtain ⟨hcache, hclean, hsynced⟩ :
      _ = s.cache ∧ _ = s.clean ∧ _ = s.synced := by
    simpa [State.cacheView] using State.memWrite_cacheView s regControl [v] (inSpace_byte _)
  split
  · next ho => rw [State.writeControl_of_ok v ho, ← hclean]; rfl
  · next ho => rw [State.writeControl_of_not_ok v ho, ← hcache, ← hsynced]; rfl

theorem State.performs_writeControl (v : Byte) :
    State.Performs [⟨txWrite regControl 1, [v], decide ((s.choiceAt 0).outcome = .ok)⟩]
      (writtenByte (s.choiceAt 0).outcome regControl [v]) s (s.writeControl v).2 := by
  obtain ⟨⟨ht, ho, hc, hd, he, hs, hx, hp, hi, hq⟩, hw⟩ :=
    State.performs_memWrite (s := s) regControl [v] (inSpace_byte _)
  rcases State.writeControl_snd s v with e | e
  · rw [e]; exact ⟨⟨ht, ho, hc, hd, he, hs, hx, hp, hi, hq⟩, hw⟩
  · rw [e]; exact ⟨⟨ht, ho, hc, hd, he, hs, hx, hp, hi, hq⟩, hw⟩

/-- A failed read makes its transaction and nothing else. -/
theorem State.performs_memRead_of_not_ok (a : Addr) (n : Nat) (i : inSpace a n) (ho : (s.choiceAt 0).outcome ≠ .ok) :
    State.Performs [⟨txRead a n, [], false⟩] (fun _ v => v) s (s.memRead a n i).2 := by
  refine ⟨?_, fun _ hq => State.memRead_x_of_quiet a i hq⟩
  rw [State.memRead_of_not_ok a n i ho]
  exact State.makes_record s.interleave.regs (by simp [ho])

end writes

/-! ## A Control pair -/

/-- Control read, and `g` of it written back, the cache with it (43_device.md R212). -/
def State.modifyControl (g : Byte → Byte) (s : State) : State :=
  ((s.memRead regControl 1 (inSpace_byte _)).2.writeControl (g (s.x regControl))).2

section pair

variable {s : State} (g : Byte → Byte)

/-- Control is out of the other agents' reach (60_exceptions.md R278). -/
theorem State.interleave_x_control (s : State) : s.interleave.x regControl = s.x regControl :=
  State.interleave_x s regControl (by decide) (by decide)

section outcome

variable (h : (s.choiceAt 0).outcome = .ok)
include h

theorem State.performs_memRead_control : State.Performs [⟨txRead regControl 1, [s.x regControl], true⟩] (fun _ v => v) s
    (s.memRead regControl 1 (inSpace_byte _)).2 := by
  have hr := State.performs_memRead regControl h
  rwa [State.interleave_x_control] at hr

/-- The choice that the pair's write meets. -/
theorem State.memRead_control_choiceAt :
    (s.memRead regControl 1 (inSpace_byte _)).2.choiceAt 0 = s.choiceAt 1 :=
  (State.performs_memRead_control h).makes.choiceAt 0

theorem State.performs_modifyControl : State.Performs
    [⟨txRead regControl 1, [s.x regControl], true⟩,
      ⟨txWrite regControl 1, [g (s.x regControl)], decide ((s.choiceAt 1).outcome = .ok)⟩]
    (fun b v => if b = regControl ∧ storesByte (s.choiceAt 1).outcome 0 = true then g v else v)
    s (s.modifyControl g) := by
  have hw := State.performs_writeControl (s := (s.memRead regControl 1 (inSpace_byte _)).2) (g (s.x regControl))
  rw [State.memRead_control_choiceAt h] at hw
  obtain ⟨hm, hx⟩ := (State.performs_memRead_control h).trans hw
  refine ⟨hm, fun b hq => (hx b hq).trans ?_⟩
  rw [writtenByte_one]
  refine ite_congr rfl (fun hb => ?_) fun _ => rfl
  rw [hb.1]

theorem State.modifyControl_cacheView : (s.modifyControl g).cacheView
    = if (s.choiceAt 1).outcome = .ok then (g (s.x regControl), s.clean, true) else (s.cache, false, s.synced) := by
  obtain ⟨hcache, hclean, hsynced⟩ : _ = s.cache ∧ _ = s.clean ∧ _ = s.synced := by
    simpa [State.cacheView] using State.memRead_cacheView s regControl 1 (inSpace_byte _)
  rw [State.modifyControl, State.writeControl_cacheView, State.memRead_control_choiceAt h, hcache, hclean, hsynced]

end outcome

/-- Beside Control the pair leaves the registers as the other agents do. -/
theorem State.modifyControl_x_other {b : Addr} (hb : b ≠ regControl) :
    (s.modifyControl g).x b = (s.waited 2).x b := by
  obtain ⟨tx, e⟩ := State.memRead_snd s regControl 1 (inSpace_byte _)
  rw [State.modifyControl, State.writeControl_x, State.memWrite_x_of_misses _ _ _ _ (TxInfo.misses_of_ne _ hb), e,
    State.interleave_record_interleave]
  rfl

end pair

end Sys2Proof.Machine
end

section
/-! PROOFS. SETTIME (43_device.md R212, R215, R218): the first Control pair, the block write, the second Control pair;
where each failure ends it, and what it leaves where nothing fails. -/

namespace Sys2Proof.Machine

/-! ## The stages -/

/-- After the first Control pair: STOP set. -/
def State.halted (s : State) : State := s.modifyControl (bset · maskSTOP)

theorem timeImage_inSpace (r : TimeImage) : inSpace regSec (imageBytes r).length := timeBlock_inSpace

/-- After the block write. -/
def State.timeWritten (r : TimeImage) (s : State) : State :=
  (s.halted.memWrite regSec (imageBytes r) (timeImage_inSpace r)).2

/-- What SETTIME's trace holds up to the block write, `c` being the Control byte found. -/
def haltAndWriteTrace (c : Byte) (r : TimeImage) (written : Bool) : List Transaction :=
  [⟨txRead regControl 1, [c], true⟩, ⟨txWrite regControl 1, [bset c maskSTOP], true⟩,
    ⟨txWrite regSec 7, imageBytes r, written⟩]

/-- Setting STOP and clearing it is clearing it. -/
theorem bclr_bset (b m : Byte) : bclr (bset b m) m = bclr b m := by
  refine BitVec.eq_of_getLsbD_eq fun i hi => ?_
  rw [getLsbD_bclr _ _ hi, getLsbD_bset, getLsbD_bclr _ _ hi]
  cases m.getLsbD i <;> simp

theorem Memory.stopped_of_bset {m : Memory} {b : Byte} (h : Memory.get m regControl = bset b maskSTOP) :
    Memory.stopped m = true := by
  rw [Memory.stopped, h]
  exact btst_bset (by decide) b

/-! ## The first Control pair -/

section firstPair

variable {s : State} (t : CalendarTime)

theorem State.setTimeBody_of_read_fails (h : (s.choiceAt 0).outcome ≠ .ok) : State.setTimeBody t s
    = s.endOfReads 1 [⟨txRead regControl 1, [], false⟩] (.error (.transportError (txRead regControl 1))) :=
  State.readThen_of_first_fails h

/-- The write that follows the first read offers Control with STOP set. -/
theorem State.setTimeBody_of_read (h : (s.choiceAt 0).outcome = .ok) : State.setTimeBody t s
    = (s.memRead regControl 1 (inSpace_byte _)).2.writeControlThen (bset (s.x regControl) maskSTOP)
        (·.writeTimeAndRestart (encodeImage t)) := by
  rw [State.setTimeBody, State.readByteThen_of_ok h, State.interleave_x_control]

theorem State.setTimeBody_of_write_fails (h0 : (s.choiceAt 0).outcome = .ok) (h1 : (s.choiceAt 1).outcome ≠ .ok) :
    State.setTimeBody t s = s.halted.raise (.transportError (txWrite regControl 1)) := by
  rw [State.setTimeBody_of_read t h0, State.writeControlThen_of_fails (by rwa [State.memRead_control_choiceAt h0])]
  rfl

theorem State.setTimeBody_of_first_pair (h : s.allSucceed 2) :
    State.setTimeBody t s = s.halted.writeTimeAndRestart (encodeImage t) := by
  have h0 := h 0 (by omega)
  rw [State.setTimeBody_of_read t h0,
    State.writeControlThen_of_ok (by rw [State.memRead_control_choiceAt h0]; exact h 1 (by omega))]
  rfl

end firstPair

theorem exec_setTime {s : State} {t : CalendarTime} (hp : s.phase = .live) (hl : s.lock = .free)
    (hv : validSupplied t = true) :
    exec (.setTime t) s = .next ((State.setTimeBody t (s.setLock .foreground)).setLock .free) :=
  (State.whenLive_live hp _).trans ((if_pos hv).trans (State.locked_free hl _ _))

/-- STOP is set in Control where the pair's write stores its byte, and only there (20_memory.md R69). -/
theorem State.halted_x_control {s : State} (h : (s.choiceAt 0).outcome = .ok) :
    s.halted.x regControl
      = if storesByte (s.choiceAt 1).outcome 0 = true then bset (s.x regControl) maskSTOP else s.x regControl :=
  ((State.performs_modifyControl _ h).x regControl (.inl (by decide))).trans (by simp)

/-- Settles O25: a failed read makes no store; a failed write may store in Control only, and leaves the cache. -/
theorem setTimeFirstPairFailureStopsAtOnce : Obligations.SetTimeFirstPairFailureStopsAtOnce := by
  intro t s hp hl hv
  refine ⟨fun h0 => ?_, fun h0 h1 => ?_⟩
  · refine ⟨_, exec_setTime hp hl hv, ?_⟩
    rw [State.setTimeBody_of_read_fails (s := s.setLock .foreground) t h0, State.endOfReads_underLock hl]
    exact ⟨rfl, rfl, rfl, State.envSteps_cache s _⟩
  · refine ⟨_, exec_setTime hp hl hv, ?_⟩
    have hpair := State.performs_modifyControl (s := s.setLock .foreground) (bset · maskSTOP) h0
    have hcache := State.modifyControl_cacheView (s := s.setLock .foreground) (bset · maskSTOP) h0
    have hx := State.halted_x_control (s := s.setLock .foreground) h0
    rw [State.choiceAt_setLock, if_neg h1] at hcache
    rw [State.choiceAt_setLock, decide_eq_false h1] at hpair
    rw [State.setTimeBody_of_write_fails (s := s.setLock .foreground) t h0 h1]
    refine ⟨rfl, hpair.makes.trace, ?_, fun a ha => ?_, congrArg Prod.fst hcache⟩
    · split at hx
      · exact .inr hx
      · exact .inl hx
    · have hother := State.modifyControl_x_other (s := s.setLock .foreground) (bset · maskSTOP) ha
      exact hother.trans (State.waited_setLock_x (s := s) .foreground 2 a)

theorem State.cacheView_eq_iff {s : State} {c : Byte} {clean synced : Bool} :
    s.cacheView = (c, clean, synced) ↔ s.cache = c ∧ s.clean = clean ∧ s.synced = synced := by
  simp [State.cacheView]

/-! ## The block write -/

theorem State.writeTimeAndRestart_eq (s : State) (r : TimeImage) : s.writeTimeAndRestart r
    = (s.memWrite regSec (imageBytes r) (timeImage_inSpace r)).2.clearStop.2.setResult
        (setTimeResult (s.memWrite regSec (imageBytes r) (timeImage_inSpace r)).1
          (s.memWrite regSec (imageBytes r) (timeImage_inSpace r)).2.clearStop.1) := rfl

section blockWrite

variable {s : State} (r : TimeImage) (h : s.allSucceed 2)
include h

theorem State.performs_halted : State.Performs
    [⟨txRead regControl 1, [s.x regControl], true⟩, ⟨txWrite regControl 1, [bset (s.x regControl) maskSTOP], true⟩]
    (fun b v => if b = regControl then bset v maskSTOP else v) s s.halted := by
  have hpair := State.performs_modifyControl (bset · maskSTOP) (h 0 (by omega))
  simp only [h 1 (by omega), storesByte, and_true, decide_true] at hpair
  exact hpair

theorem State.performs_timeWritten : State.Performs
    (haltAndWriteTrace (s.x regControl) r (decide ((s.choiceAt 2).outcome = .ok)))
    (fun b v => writtenByte (s.choiceAt 2).outcome regSec (imageBytes r) b
      (if b = regControl then bset v maskSTOP else v)) s (s.timeWritten r) := by
  have hpair := State.performs_halted h
  have hw := State.performs_memWrite (s := s.halted) regSec (imageBytes r) (timeImage_inSpace r)
  rw [hpair.makes.choiceAt 0] at hw
  exact hpair.trans hw

theorem State.timeWritten_cacheView :
    (s.timeWritten r).cacheView = (bset (s.x regControl) maskSTOP, s.clean, true) := by
  rw [State.timeWritten, State.memWrite_cacheView, State.halted,
    State.modifyControl_cacheView _ (h 0 (by omega)), if_pos (h 1 (by omega))]

theorem State.timeWritten_x_control : (s.timeWritten r).x regControl = bset (s.x regControl) maskSTOP :=
  ((State.performs_timeWritten r h).x regControl (.inl (by decide))).trans (writtenByte_time (by decide) _ _ _)

theorem State.timeWritten_timeImage (h2 : (s.choiceAt 2).outcome = .ok) :
    Memory.timeImage (s.timeWritten r).regs = r := by
  have hw : (s.halted.choiceAt 0).outcome = .ok := by rwa [(State.performs_halted h).makes.choiceAt]
  rw [State.timeWritten, State.memWrite_of_ok _ _ _ hw]
  exact Memory.timeImage_setTimeImage s.halted.interleave.regs r

/-- From the block write on, SETTIME's result is the report of what failed first (43_device.md R215). -/
theorem State.setTimeBody_eq (t : CalendarTime) : State.setTimeBody t s
    = (s.timeWritten (encodeImage t)).clearStop.2.setResult
        (setTimeResult (decide ((s.choiceAt 2).outcome = .ok)) (s.timeWritten (encodeImage t)).clearStop.1) := by
  rw [State.setTimeBody_of_first_pair t h, State.writeTimeAndRestart_eq, State.memWrite_fst,
    (State.performs_halted h).makes.choiceAt]
  rfl

end blockWrite

/-! ## The second Control pair -/

section secondPair

variable {s : State}

theorem State.clearStop_of_read_fails (h : (s.choiceAt 0).outcome ≠ .ok) :
    s.clearStop = (some (txRead regControl 1), (s.memRead regControl 1 (inSpace_byte _)).2) := by
  rw [State.clearStop, State.memRead_of_not_ok _ _ _ h]
  rfl

theorem State.clearStop_of_read (h : (s.choiceAt 0).outcome = .ok) : s.clearStop
    = (if (s.choiceAt 1).outcome = .ok then none else some (txWrite regControl 1),
        s.modifyControl (bclr · maskSTOP)) := by
  have hc := State.memRead_control_choiceAt h
  have hb : (Memory.readBlock s.interleave.regs regControl.toNat 1).getD 0 0 = s.x regControl :=
    State.interleave_x_control s
  rw [State.modifyControl]
  rw [State.memRead_of_ok _ _ _ h] at hc ⊢
  rw [State.clearStop, State.memRead_of_ok _ _ _ h]
  simp only [hb]
  by_cases h1 : (s.choiceAt 1).outcome = .ok
  · rw [State.writeControl_of_ok _ (by rwa [hc]), if_pos h1]
  · rw [State.writeControl_of_not_ok _ (by rwa [hc]), if_neg h1]
    rfl

end secondPair

/-! ## SETTIME past its first pair (R215) -/

section restart

variable {s : State}

theorem State.clearStop_fst (s : State) : s.clearStop.1 =
    if (s.choiceAt 0).outcome ≠ .ok then some (txRead regControl 1)
    else if (s.choiceAt 1).outcome ≠ .ok then some (txWrite regControl 1) else none := by
  by_cases h : (s.choiceAt 0).outcome = .ok
  · rw [State.clearStop_of_read h, if_neg (not_not.mpr h), ite_not]
  · rw [State.clearStop_of_read_fails h, if_pos h]

/-- The transactions of the second Control pair: `c` is the byte it reads, `readOk` and `writeOk` their outcomes. -/
def restartTrace (c : Byte) (readOk writeOk : Bool) : List Transaction :=
  if readOk then [⟨txRead regControl 1, [c], true⟩, ⟨txWrite regControl 1, [bclr c maskSTOP], writeOk⟩]
  else [⟨txRead regControl 1, [], false⟩]

theorem State.performs_clearStop (s : State) : State.Performs
    (restartTrace (s.x regControl) (decide ((s.choiceAt 0).outcome = .ok)) (decide ((s.choiceAt 1).outcome = .ok)))
    (fun b v => if b = regControl ∧ (s.choiceAt 0).outcome = .ok ∧ storesByte (s.choiceAt 1).outcome 0 = true
      then bclr v maskSTOP else v) s s.clearStop.2 := by
  by_cases h : (s.choiceAt 0).outcome = .ok
  · rw [State.clearStop_of_read h]
    simpa [restartTrace, h] using State.performs_modifyControl (bclr · maskSTOP) h
  · rw [State.clearStop_of_read_fails h]
    simpa [restartTrace, h] using State.performs_memRead_of_not_ok regControl 1 (inSpace_byte _) h

theorem State.clearStop_cacheView (s : State) : s.clearStop.2.cacheView =
    if (s.choiceAt 0).outcome = .ok then
      if (s.choiceAt 1).outcome = .ok then (bclr (s.x regControl) maskSTOP, s.clean, true)
      else (s.cache, false, s.synced)
    else s.cacheView := by
  by_cases h : (s.choiceAt 0).outcome = .ok
  · rw [State.clearStop_of_read h, if_pos h]
    exact State.modifyControl_cacheView _ h
  · rw [State.clearStop_of_read_fails h, if_neg h]
    exact State.memRead_cacheView _ _ _ _

end restart

/-- SETTIME's report: the first of the last three transactions that failed. -/
theorem setTimeResult_eq (b : Bool) (e2 : Option TxInfo) : setTimeResult b e2
    = if b = false then .error (.transportError (txWrite regSec 7))
      else e2.elim (.ok .none) fun info => .error (.transportError info) := by
  cases b with
  | false => rfl
  | true => cases e2 <;> rfl

section lastThree

variable {s : State} (t : CalendarTime) (h : s.allSucceed 2)
include h

theorem State.setTimeBody_result : (State.setTimeBody t s).result = some (
    if (s.choiceAt 2).outcome ≠ .ok then .error (.transportError (txWrite regSec 7))
    else if (s.choiceAt 3).outcome ≠ .ok then .error (.transportError (txRead regControl 1))
    else if (s.choiceAt 4).outcome ≠ .ok then .error (.transportError (txWrite regControl 1))
    else .ok .none) := by
  have hm := (State.performs_timeWritten (encodeImage t) h).makes
  have h3 : (s.timeWritten (encodeImage t)).choiceAt 0 = s.choiceAt 3 := hm.choiceAt 0
  have h4 : (s.timeWritten (encodeImage t)).choiceAt 1 = s.choiceAt 4 := hm.choiceAt 1
  rw [State.setTimeBody_eq h t, State.clearStop_fst, h3, h4, setTimeResult_eq, State.setResult_result]
  refine congrArg some (if_congr decide_eq_false_iff_not rfl ?_)
  split
  · rfl
  · split
    · rfl
    · rfl

/-- The stages of SETTIME past its first pair, whatever fails. -/
theorem State.performs_setTimeBody : State.Performs
    (haltAndWriteTrace (s.x regControl) (encodeImage t) (decide ((s.choiceAt 2).outcome = .ok))
      ++ restartTrace (bset (s.x regControl) maskSTOP) (decide ((s.choiceAt 3).outcome = .ok))
        (decide ((s.choiceAt 4).outcome = .ok)))
    (fun b v => if b = regControl then
        if (s.choiceAt 3).outcome = .ok ∧ storesByte (s.choiceAt 4).outcome 0 = true then bclr v maskSTOP
        else bset v maskSTOP
      else writtenByte (s.choiceAt 2).outcome regSec (imageBytes (encodeImage t)) b v) s (State.setTimeBody t s) := by
  have hw := State.performs_timeWritten (encodeImage t) h
  have h3 : (s.timeWritten (encodeImage t)).choiceAt 0 = s.choiceAt 3 := hw.makes.choiceAt 0
  have h4 : (s.timeWritten (encodeImage t)).choiceAt 1 = s.choiceAt 4 := hw.makes.choiceAt 1
  have hr := State.performs_clearStop (s.timeWritten (encodeImage t))
  rw [h3, h4, State.timeWritten_x_control _ h] at hr
  obtain ⟨hm, hx⟩ := hw.trans hr
  rw [State.setTimeBody_eq h t]
  refine ⟨hm.setResult _, fun b hq => (hx b hq).trans ?_⟩
  by_cases hb : b = regControl
  · subst hb
    simp only [true_and, if_true, writtenByte_time (b := regControl) (by decide), bclr_bset]
  · simp only [hb, false_and, if_false]

theorem State.setTimeBody_cacheView : (State.setTimeBody t s).cacheView =
    if (s.choiceAt 3).outcome = .ok then
      if (s.choiceAt 4).outcome = .ok then (bclr (s.x regControl) maskSTOP, s.clean, true)
      else (bset (s.x regControl) maskSTOP, false, true)
    else (bset (s.x regControl) maskSTOP, s.clean, true) := by
  have hm := (State.performs_timeWritten (encodeImage t) h).makes
  have h3 : (s.timeWritten (encodeImage t)).choiceAt 0 = s.choiceAt 3 := hm.choiceAt 0
  have h4 : (s.timeWritten (encodeImage t)).choiceAt 1 = s.choiceAt 4 := hm.choiceAt 1
  have hview := State.timeWritten_cacheView (encodeImage t) h
  obtain ⟨hcache, hclean, hsynced⟩ := State.cacheView_eq_iff.mp hview
  have hr := State.clearStop_cacheView (s.timeWritten (encodeImage t))
  rw [h3, h4, State.timeWritten_x_control _ h, bclr_bset, hcache, hclean, hsynced, hview] at hr
  rw [State.setTimeBody_eq h t]
  exact hr

end lastThree

/-- SETTIME stores in the time registers and Control; the rest is out of its and, but for Flag, of the other agents'
reach (10_state.md R51, 60_exceptions.md R278). -/
theorem exec_setTime_frame {s u : State} {t : CalendarTime} (he : exec (.setTime t) s = .next u) (a : Addr)
    (ht : isTimeRegister a = false) (hE : a ≠ regFlag) (hF : a ≠ regControl) : u.x a = s.x a := by
  obtain ⟨hframe, -⟩ := interleavedOperationFrames _ s u he
  refine hframe a ?_ ht hE
  rw [mayStore, ht, Bool.false_or]
  exact beq_eq_false_iff_ne.mpr hF

/-- Settles O24: the first of the last three transactions that fails is reported, and the second pair is tried in every
case. -/
theorem setTimeFirstErrorWins : Obligations.SetTimeFirstErrorWins := by
  intro t s hp hl hv h c halted running
  have h2 : (s.setLock .foreground).allSucceed 2 := h
  have he := exec_setTime hp hl hv
  obtain ⟨hm, hx⟩ := State.performs_setTimeBody t h2
  have hview := State.setTimeBody_cacheView t h2
  have hcontrol := hx regControl (.inl (by decide))
  rw [if_pos rfl] at hcontrol
  rw [State.choiceAt_setLock, State.choiceAt_setLock] at hcontrol hview
  refine ⟨_, he, State.setTimeBody_result t h2, ?_, ?_, exec_setTime_frame he, rfl, ?_, hm.events⟩
  · refine hm.trace.trans ?_
    simp only [restartTrace, decide_eq_true_eq, bclr_bset, List.append_assoc]
    rfl
  · cases h3 : (s.choiceAt 3).outcome with
    | fails stored =>
      rw [h3, if_neg (by simp)] at hcontrol hview
      obtain ⟨hcache, hclean, -⟩ := State.cacheView_eq_iff.mp hview
      exact ⟨hcontrol, hcache, hclean⟩
    | ok =>
      rw [h3] at hcontrol
      rw [h3, if_pos rfl] at hview
      cases h4 : (s.choiceAt 4).outcome with
      | fails stored =>
        rw [h4] at hcontrol
        rw [h4, if_neg (by simp)] at hview
        obtain ⟨hcache, hclean, -⟩ := State.cacheView_eq_iff.mp hview
        exact ⟨hcontrol.trans (if_congr (and_iff_right rfl) rfl rfl), hcache, hclean⟩
      | ok =>
        rw [h4] at hcontrol
        rw [h4, if_pos rfl] at hview
        obtain ⟨hcache, hclean, -⟩ := State.cacheView_eq_iff.mp hview
        exact ⟨hcontrol.trans (if_pos ⟨rfl, rfl⟩), hcache, hclean⟩
  · have hsynced := congrArg (fun v : Byte × Bool × Bool => v.2.2) hview
    simp only [apply_ite (fun v : Byte × Bool × Bool => v.2.2), ite_self] at hsynced
    exact hsynced

/-! ## SETTIME without failures -/

/-- An image is the time registers' bytes. -/
theorem Memory.timeImage_congr {m m' : Memory}
    (h : ∀ a, isTimeRegister a = true → Memory.get m a = Memory.get m' a) :
    Memory.timeImage m = Memory.timeImage m' := by
  simp only [Memory.timeImage]
  rw [h regSec (by decide), h regMin (by decide), h regHour (by decide), h regWday (by decide),
    h regMday (by decide), h regMonth (by decide), h regYear (by decide)]

/-- While STOP is set a Control pair leaves the time as it is, even if it clears STOP (60_exceptions.md R272;
log entry 10). -/
theorem State.modifyControl_timeImage {s : State} (g : Byte → Byte) (h : Memory.stopped s.regs = true) :
    Memory.timeImage (s.modifyControl g).regs = Memory.timeImage s.regs := by
  have hpair : Memory.timeImage (s.modifyControl g).regs = Memory.timeImage (s.waited 2).regs := by
    refine Memory.timeImage_congr fun a ha => State.modifyControl_x_other g ?_
    rintro rfl
    cases ha
  exact hpair.trans (State.envSteps_time _ s h)

section success

variable {s : State} (t : CalendarTime) (h : s.allSucceed 5)
include h

theorem State.setTimeBody_timeImage : Memory.timeImage (State.setTimeBody t s).regs = encodeImage t := by
  have h2 : s.allSucceed 2 := State.allSucceed_mono h (by omega)
  have h4 : s.allSucceed 4 := State.allSucceed_mono h (by omega)
  have hw : ((s.timeWritten (encodeImage t)).choiceAt 0).outcome = .ok :=
    (State.performs_timeWritten (encodeImage t) h2).makes.next_ok h4
  have hstopped := Memory.stopped_of_bset (State.timeWritten_x_control (encodeImage t) h2)
  rw [State.setTimeBody_eq h2 t, State.clearStop_of_read hw, State.setResult_regs]
  exact (State.modifyControl_timeImage (bclr · maskSTOP) hstopped).trans
    (State.timeWritten_timeImage _ h2 (h 2 (by omega)))

/-- The five transactions of R212, and what they make of every register that the other agents leave alone. -/
theorem State.performs_setTimeBody_of_ok : State.Performs
    (haltAndWriteTrace (s.x regControl) (encodeImage t) true
      ++ restartTrace (bset (s.x regControl) maskSTOP) true true)
    (fun b v => if b = regControl then bclr v maskSTOP
      else writtenByte .ok regSec (imageBytes (encodeImage t)) b v) s (State.setTimeBody t s) := by
  have hbody := State.performs_setTimeBody t (State.allSucceed_mono h (by omega : 2 ≤ 5))
  simpa only [h 2 (by omega), h 3 (by omega), h 4 (by omega), decide_true, storesByte, and_true, if_true] using hbody

theorem State.setTimeBody_cacheView_of_ok :
    (State.setTimeBody t s).cacheView = (bclr (s.x regControl) maskSTOP, s.clean, true) := by
  rw [State.setTimeBody_cacheView t (State.allSucceed_mono h (by omega)), if_pos (h 3 (by omega)),
    if_pos (h 4 (by omega))]

theorem State.setTimeBody_result_of_ok : (State.setTimeBody t s).result = some (.ok .none) := by
  rw [State.setTimeBody_result t (State.allSucceed_mono h (by omega)), if_neg (not_not.mpr (h 2 (by omega))),
    if_neg (not_not.mpr (h 3 (by omega))), if_neg (not_not.mpr (h 4 (by omega)))]

end success

/-- Where no allowed write covers Flag, its set bits stay set (60_exceptions.md R278). -/
theorem Run.flag_grows {ok : TxInfo → Prop} {init sep : Bool} {s t : State} (h : Run ok init sep s t)
    (hm : ∀ x, ok x → x.dir = .write → x.misses regFlag) (k : Nat) (hk : (s.x regFlag).getLsbD k = true) :
    (t.x regFlag).getLsbD k = true := by
  have waited {s : State} (hs : (s.x regFlag).getLsbD k = true) : (s.interleave.x regFlag).getLsbD k = true := by
    rw [State.interleave_eq_skip]
    exact State.envSteps_flag_grows _ _ k hs
  induction h with
  | done => exact hk
  | read s t a n i _ _ ih =>
    obtain ⟨tx, e⟩ := State.memRead_snd s a n i
    refine ih ?_
    rw [e]
    exact waited hk
  | write s t a vs i _ ha _ ih =>
    refine ih ?_
    rw [State.memWrite_x_of_misses s a vs i (hm _ ha rfl)]
    exact waited hk
  | control s t v ha _ ih =>
    refine ih ?_
    rw [State.writeControl_x, State.memWrite_x_of_misses s regControl [v] _ (hm _ ha rfl)]
    exact waited hk
  | emit _ _ _ _ ih | result _ _ _ _ ih | load _ _ _ _ _ ih | finish _ _ _ _ _ _ ih => exact ih hk

/-- Settles O23: the three stages of R212, none of which fails. -/
theorem setTimeStoresTheTime : Obligations.SetTimeStoresTheTime := by
  intro t s hp hl hv h
  have h5 : (s.setLock .foreground).allSucceed 5 := h
  have he := exec_setTime hp hl hv
  obtain ⟨hmakes, hx⟩ := State.performs_setTimeBody_of_ok t h5
  have hm := hmakes.underLock .free
  obtain ⟨hcache, hclean, hsynced⟩ := State.cacheView_eq_iff.mp (State.setTimeBody_cacheView_of_ok t h5)
  have hcontrol := (hx regControl (.inl (by decide))).trans (if_pos rfl)
  have hflag := Run.flag_grows (setTimeBody_run s.params false (s.setLock .foreground) t)
    (listedTransactions_misses rfl)
  refine ⟨_, he, State.setTimeBody_result_of_ok t h5, State.setTimeBody_timeImage t h5, hcontrol,
    hcache.trans hcontrol.symm, exec_setTime_frame he, fun k _ => hflag k, fun hu => ?_, ⟨_, hm.trace, rfl⟩,
    hm.choices, hm.drawCount, hm.events, rfl, hm.shutdown, hm.destroyed, hm.params, hm.inputs, hclean, hsynced,
    hm.pstate⟩
  refine (hx regFlag (.inr hu)).trans ?_
  rw [if_neg (by decide), writtenByte_time (by decide)]
  rfl

/-! ## GETTIME after SETTIME -/

/-- A GETTIME whose read succeeds undisturbed gives back the valid time that the registers hold. -/
theorem exec_getTime_of_image {s : State} {t : CalendarTime} (hp : s.phase = .live) (hl : s.lock = .free)
    (ho : (s.choiceAt 0).outcome = .ok) (hu : (s.choiceAt 0).steps = [])
    (hi : Memory.timeImage s.regs = encodeImage t) (hv : validTime t = true) :
    ∃ v, exec .getTime s = .next v ∧ v.result = some (.ok (.time t)) := by
  obtain ⟨-, hread⟩ := getTimeReadsOneBlock
  have he := hread s hp hl
  rw [ho, hu] at he
  refine ⟨_, he, ?_⟩
  rw [State.envSteps_nil, hi, decodeImage_encodeImage hv]

/-- Settles O26: SETTIME leaves the encoded image and GETTIME decodes it. -/
theorem setTimeThenGetTimeReturnsIt : Obligations.SetTimeThenGetTimeReturnsIt := by
  intro t s hp hl hv h hu5
  have h5 : (s.setLock .foreground).allSucceed 5 := State.allSucceed_mono h (by omega)
  have hm := (State.performs_setTimeBody_of_ok t h5).makes.underLock .free
  obtain ⟨v, he, hr⟩ := exec_getTime_of_image (t := { t with year := t.year % 100 }) (hm.phase.trans hp) rfl
    (hm.next_ok h) ((congrArg Choice.steps (hm.choiceAt 0)).trans hu5)
    ((State.setTimeBody_timeImage t h5).trans (encodeImage_year_mod t).symm) hv
  exact ⟨_, v, exec_setTime hp hl hv, he, hr⟩

end Sys2Proof.Machine
end

section
/-! PROOFS. INIT succeeds, or ends at its first failed transaction with the device still fresh, whatever the other
agents do in between (43_device.md R213, R218). -/

namespace Sys2Proof.Machine

/-! ## INIT under way -/

/-- INIT, begun in `s₀`, has come to `s`: all its transactions so far have succeeded, and the device is still fresh. -/
structure State.Underway (s₀ s : State) : Prop where
  trace : ∃ new, s.trace = s₀.trace ++ new ∧ ∀ x ∈ new, x.succeeded = true
  phase : s.phase = .fresh
  params : s.params = s₀.params
  clean : s₀.clean = false → s.clean = false

/-- INIT, begun in `s₀`, ends in `t`: with OK and the pipeline armed or disarmed, or with the first transaction that
failed and the device fresh. -/
def State.InitEnds (s₀ t : State) : Prop :=
  ∃ new, t.trace = s₀.trace ++ new
    ∧ ((∃ b, t.result = some (.ok (.bool b))) ∧ t.pstate = (if s₀.params.hasIrq then .armed else .disarmed)
        ∧ (∀ x ∈ new, x.succeeded = true)
      ∨ ∃ before last, new = before ++ [last] ∧ (∀ x ∈ before, x.succeeded = true) ∧ last.succeeded = false
        ∧ t.result = some (.error (.transportError last.info)) ∧ t.phase = .fresh
        ∧ (s₀.clean = false → t.clean = false))

section rules

variable {s₀ s s' t : State}

theorem State.Underway.refl (h : s.phase = .fresh) : State.Underway s s := ⟨⟨[], by simp, by simp⟩, h, rfl, id⟩

theorem State.Underway.emit (h : State.Underway s₀ s) (es : List Event) : State.Underway s₀ (s.emit es) :=
  ⟨h.trace, h.phase, h.params, h.clean⟩

theorem State.Underway.setCache (h : State.Underway s₀ s) (v : Byte) : State.Underway s₀ (s.setCache v) :=
  ⟨h.trace, h.phase, h.params, h.clean⟩

/-- One transaction: INIT goes on after a success, and a failure ends it. -/
theorem State.Underway.ends {x : TxInfo} (h : State.Underway s₀ s)
    (hm : ∃ tx : Transaction, tx.info = x ∧ State.Makes [tx] s s') (hclean : s.clean = false → s'.clean = false)
    (hok : (s.choiceAt 0).outcome = .ok → State.Underway s₀ s' → State.InitEnds s₀ t)
    (hfail : (s.choiceAt 0).outcome ≠ .ok → t = s'.raise (.transportError x)) : State.InitEnds s₀ t := by
  obtain ⟨tx, rfl, hm⟩ := hm
  obtain ⟨new, htrace, hnew⟩ := h.trace
  have htx := hm.outcomes 0 tx rfl
  have hgrown : s'.trace = s₀.trace ++ (new ++ [tx]) := by rw [hm.trace, htrace, List.append_assoc]
  have hphase := hm.phase.trans h.phase
  have hc := fun h₀ => hclean (h.clean h₀)
  by_cases ho : (s.choiceAt 0).outcome = .ok
  · refine hok ho ⟨⟨_, hgrown, ?_⟩, hphase, hm.params.trans h.params, hc⟩
    exact List.forall_mem_append.mpr ⟨hnew, by simpa using htx.mpr ho⟩
  · rw [hfail ho]
    exact ⟨_, hgrown, .inr ⟨new, tx, rfl, hnew, by rw [← Bool.not_eq_true, htx]; exact ho, rfl, hphase, hc⟩⟩

theorem State.Underway.readThen (h : State.Underway s₀ s) {a : Addr} {n : Nat} {i : inSpace a n}
    {k : List Byte → State → State} (hk : ∀ bs s', State.Underway s₀ s' → State.InitEnds s₀ (k bs s')) :
    State.InitEnds s₀ (s.readThen a n i k) := by
  have hclean : (s.memRead a n i).2.clean = s.clean := congrArg (·.2.1) (State.memRead_cacheView s a n i)
  exact h.ends (State.makes_memRead_any a n i) hclean.trans
    (fun ho hu => by rw [State.readThen_of_ok ho]; exact hk _ _ hu) State.readThen_of_fails

theorem State.Underway.writeThen (h : State.Underway s₀ s) {a : Addr} {vs : List Byte} {i : inSpace a vs.length}
    {k : State → State} (hk : ∀ s', State.Underway s₀ s' → State.InitEnds s₀ (k s')) :
    State.InitEnds s₀ (s.writeThen a vs i k) := by
  have hclean : (s.memWrite a vs i).2.clean = s.clean := congrArg (·.2.1) (State.memWrite_cacheView s a vs i)
  exact h.ends (State.makes_memWrite_any a vs i) hclean.trans
    (fun ho hu => by rw [State.writeThen_of_ok ho]; exact hk _ hu) State.writeThen_of_fails

/-- A Control write never begins `clean` (10_state.md R48). -/
theorem State.writeControl_clean_of_false (v : Byte) (h : s.clean = false) : (s.writeControl v).2.clean = false := by
  have hview : (s.writeControl v).2.clean = _ := congrArg (·.2.1) (State.writeControl_cacheView s v)
  rw [hview]
  split
  · exact h
  · rfl

theorem State.Underway.writeControlThen (h : State.Underway s₀ s) {v : Byte} {k : State → State}
    (hk : ∀ s', State.Underway s₀ s' → State.InitEnds s₀ (k s')) : State.InitEnds s₀ (s.writeControlThen v k) :=
  h.ends (State.makes_writeControl_any v) (State.writeControl_clean_of_false v)
    (fun ho hu => by rw [State.writeControlThen_of_ok ho]; exact hk _ hu) State.writeControlThen_of_fails

/-! ## INIT's body -/

theorem State.Underway.finishInit (h : State.Underway s₀ s) (zeroed needsReset : Bool) :
    State.InitEnds s₀ (s.finishInit zeroed needsReset) := by
  obtain ⟨new, htrace, hnew⟩ := h.trace
  refine ⟨new, htrace, .inl ⟨⟨needsReset, rfl⟩, ?_, hnew⟩⟩
  rw [← h.params]
  rfl

theorem State.Underway.inspectFlag (h : State.Underway s₀ s) (flag : Byte) :
    State.InitEnds s₀ (s.inspectFlag flag) := by
  unfold State.inspectFlag
  dsimp only
  split
  · exact (h.emit _).writeThen fun s hs => hs.writeControlThen fun s hs => hs.finishInit _ _
  · exact (h.emit _).finishInit _ _

theorem State.Underway.initSequence (h : State.Underway s₀ s) : State.InitEnds s₀ s.initSequence :=
  h.writeThen fun _ h => h.writeThen fun _ h => h.readThen fun r _ h =>
    (h.setCache (initControl (r.getD 2 0))).writeThen fun _ h => h.inspectFlag _

/-- Forgetting the cache is no transaction. -/
theorem State.InitEnds.forgetCache (h : State.InitEnds s₀ t) : State.InitEnds s₀ t.forgetCache := by
  unfold State.forgetCache
  split
  · exact h
  · exact h

end rules

theorem exec_init {s : State} (hp : s.phase = .fresh) (hl : s.lock = .free) :
    exec .init s = .next ((State.initBody (s.setLock .foreground)).setLock .free) :=
  (State.whenFresh_fresh hp _).trans (State.locked_free hl _ _)

/-- Settles O28: INIT is under way until its end or its first failure. -/
theorem initSucceedsOrLeavesTheDeviceFresh : Obligations.InitSucceedsOrLeavesTheDeviceFresh := by
  intro s hp hl
  have hends : State.InitEnds (s.setLock .foreground) (State.initBody (s.setLock .foreground)) :=
    (State.Underway.initSequence (.refl (s := s.setLock .foreground) hp)).forgetCache
  obtain ⟨new, htrace, hend⟩ := hends
  refine ⟨_, new, exec_init hp hl, htrace, ?_⟩
  rcases hend with hok | ⟨before, last, hnew, hbefore, hlast, hresult, hphase, hclean⟩
  · exact .inl hok
  · exact .inr ⟨before, last, hnew, hbefore, hlast, hresult, hphase, rfl, hclean⟩

end Sys2Proof.Machine
end

section
/-! PROOFS. INIT where nothing fails and nobody steps in between (43_device.md R213, 70_reset_and_hazards.md R304): its
sequence up to the Extension write, then the inspection of the Flag byte found. -/

namespace Sys2Proof.Machine

/-! ## The bytes INIT computes -/

/-- FSEL replaced and TE cleared (10_state.md R33). -/
theorem initExtension_eq (ext : Byte) (fsel : BitVec 2) :
    initExtension ext fsel = ext &&& 0x2F#8 ||| BitVec.setWidth 8 fsel <<< 6 := by
  have hkeep : bclr ext maskTE &&& ~~~maskFSEL = ext &&& 0x2F#8 := BitVec.and_assoc ..
  have hfsel : (BitVec.ofNat 8 fsel.toNat <<< shiftFSEL) &&& maskFSEL = BitVec.setWidth 8 fsel <<< 6 := by
    revert fsel
    decide
  rw [initExtension, writeField, hkeep, hfsel]

theorem btst_maskVLF (b : Byte) : btst b maskVLF = b.getLsbD 1 := by
  revert b
  decide

theorem btst_iff_ne_zero (b m : Byte) : btst b m = true ↔ b &&& m ≠ 0 := bne_iff_ne

/-- A reserved address of an admissible device is no named address (00_scope.md R7). -/
theorem Params.wf_not_named {p : Params} (h : p.wf = true) {a : Addr} (ha : a.isNamed = true) :
    a ≠ p.rsv0Addr ∧ a ≠ p.rsv1Addr := by
  simp only [Params.wf, Bool.and_eq_true, Bool.not_eq_true'] at h
  obtain ⟨⟨-, h0⟩, h1⟩ := h
  exact ⟨by rintro rfl; simp [ha] at h0, by rintro rfl; simp [ha] at h1⟩

theorem Params.wf_distinct {p : Params} (h : p.wf = true) : p.rsv0Addr ≠ p.rsv1Addr := by
  simp only [Params.wf, Bool.and_eq_true, bne_iff_ne] at h
  exact h.1.1

/-! ## Up to the Extension write -/

/-- Taking the cache's byte is no transaction. -/
theorem State.Makes.setCache {new : List Transaction} {s t : State} (h : State.Makes new s t) (v : Byte) :
    State.Makes new s (t.setCache v) :=
  ⟨h.trace, h.outcomes, h.choices, h.drawCount, h.events, h.shutdown, h.destroyed, h.params, h.inputs, h.pstate⟩

/-- The two reserved registers written. -/
def State.reservedWritten (s : State) : State :=
  ((s.memWrite s.params.rsv0Addr [s.params.rsv0Val] (inSpace_byte _)).2.memWrite s.params.rsv1Addr [s.params.rsv1Val]
    (inSpace_byte _)).2

theorem statusBlock_inSpace : inSpace regExtension 3 := by decide

/-- Extension, Flag and Control read, and the cache loaded. -/
def State.statusLoaded (s : State) : State :=
  (s.reservedWritten.memRead regExtension 3 statusBlock_inSpace).2.setCache (initControl (s.x regControl))

/-- Extension written. -/
def State.extensionWritten (s : State) : State :=
  (s.statusLoaded.memWrite regExtension [initExtension (s.x regExtension) s.params.fselDefault] (inSpace_byte _)).2

/-- The transactions of INIT up to the Extension write, where it finds `ext`, `flag` and `ctrl`. -/
def loadTrace (p : Params) (ext flag ctrl : Byte) : List Transaction :=
  [⟨txWrite p.rsv0Addr 1, [p.rsv0Val], true⟩, ⟨txWrite p.rsv1Addr 1, [p.rsv1Val], true⟩,
    ⟨txRead regExtension 3, [ext, flag, ctrl], true⟩,
    ⟨txWrite regExtension 1, [initExtension ext p.fselDefault], true⟩]

/-- What the reserved writes make of the byte `v` at `b`. -/
def reservedByte (p : Params) (b : Addr) (v : Byte) : Byte :=
  if b = p.rsv1Addr then p.rsv1Val else if b = p.rsv0Addr then p.rsv0Val else v

theorem reservedByte_named {p : Params} (h : p.wf = true) {b : Addr} (hb : b.isNamed = true) (v : Byte) :
    reservedByte p b v = v := by
  obtain ⟨h0, h1⟩ := Params.wf_not_named h hb
  rw [reservedByte, if_neg h1, if_neg h0]

section load

variable {s : State}

theorem State.performs_reservedWritten (h : s.allSucceed 2) : State.Performs
    [⟨txWrite s.params.rsv0Addr 1, [s.params.rsv0Val], true⟩, ⟨txWrite s.params.rsv1Addr 1, [s.params.rsv1Val], true⟩]
    (reservedByte s.params) s s.reservedWritten := by
  have h0 := State.performs_memWriteByte s.params.rsv0Addr s.params.rsv0Val (h 0 (by omega))
  exact h0.trans (State.performs_memWriteByte s.params.rsv1Addr s.params.rsv1Val (h0.makes.next_ok h))

variable (h : s.allSucceed 4) (hu : s.undisturbed 4) (hw : s.params.wf = true)
include h

theorem State.reservedWritten_next_ok : (s.reservedWritten.choiceAt 0).outcome = .ok :=
  (State.performs_reservedWritten (State.allSucceed_mono h (by omega))).makes.next_ok
    (State.allSucceed_mono h (by simp))

include hu hw

/-- The reserved registers are none of the three, so that INIT reads what they held before. -/
theorem State.reservedWritten_status : Memory.readBlock s.reservedWritten.interleave.regs regExtension.toNat 3
    = [s.x regExtension, s.x regFlag, s.x regControl] := by
  have hres := State.performs_reservedWritten (State.allSucceed_mono h (by omega))
  have hread {b : Addr} (hb : b.isNamed = true) : s.reservedWritten.interleave.x b = s.x b := by
    rw [State.interleave_x_of_quiet (.inr (hres.makes.undisturbed (State.undisturbed_mono hu (by simp)))),
      hres.x b (.inr (State.undisturbed_mono hu (by simp))), reservedByte_named hw hb]
  calc Memory.readBlock s.reservedWritten.interleave.regs regExtension.toNat 3
      = [s.reservedWritten.interleave.x regExtension, s.reservedWritten.interleave.x regFlag,
          s.reservedWritten.interleave.x regControl] := rfl
    _ = _ := by rw [hread (by decide), hread (by decide), hread (by decide)]

theorem State.performs_statusLoaded : State.Performs
    ((loadTrace s.params (s.x regExtension) (s.x regFlag) (s.x regControl)).take 3) (reservedByte s.params) s
    s.statusLoaded := by
  have hres := State.performs_reservedWritten (State.allSucceed_mono h (by omega))
  have hmake := State.makes_memRead regExtension 3 statusBlock_inSpace (State.reservedWritten_next_ok h)
  rw [State.reservedWritten_status h hu hw] at hmake
  have hread : State.Performs _ (fun _ v => v) s.reservedWritten
      (s.reservedWritten.memRead regExtension 3 statusBlock_inSpace).2 :=
    ⟨hmake, fun _ hq => State.memRead_x_of_quiet _ _ hq⟩
  obtain ⟨hm, hx⟩ := hres.trans hread
  exact ⟨hm.setCache _, hx⟩

theorem State.performs_extensionWritten : State.Performs
    (loadTrace s.params (s.x regExtension) (s.x regFlag) (s.x regControl))
    (fun b v => if b = regExtension then initExtension (s.x regExtension) s.params.fselDefault
      else reservedByte s.params b v) s s.extensionWritten := by
  have hload := State.performs_statusLoaded h hu hw
  exact hload.trans (State.performs_memWriteByte _ _ (hload.makes.next_ok h))

theorem State.initSequence_of_ok : s.initSequence = s.extensionWritten.inspectFlag (s.x regFlag) := by
  have hw0 := State.performs_memWriteByte s.params.rsv0Addr s.params.rsv0Val (h 0 (by omega))
  have hload := State.performs_statusLoaded h hu hw
  have hp : (s.reservedWritten.memRead regExtension 3 statusBlock_inSpace).2.params = s.params := hload.makes.params
  have e0 : s.initSequence = _ := State.writeThen_of_ok (h 0 (by omega))
  rw [e0, hw0.makes.params]
  refine (State.writeThen_of_ok (hw0.makes.next_ok (State.allSucceed_mono h (by simp)))).trans ?_
  refine (State.readThen_of_ok (s := s.reservedWritten) (State.reservedWritten_next_ok h)).trans ?_
  rw [State.reservedWritten_status h hu hw]
  refine (State.writeThen_of_ok (s := s.statusLoaded) (hload.makes.next_ok h)).trans ?_
  rw [hp]
  rfl

end load

/-! ## The inspection of Flag -/

/-- The event of an inspection that found `flag`. -/
def inspectionEvents (flag : Byte) : List Event := if btst flag maskVLF then [.clockUnreliable] else []

/-- Flag inspected: ClockUnreliable for VLF, Flag and Control zeroed where a named flag was set. -/
def State.inspected (flag : Byte) (s : State) : State :=
  if btst flag maskAnyFlag then
    (((s.emit (inspectionEvents flag)).memWrite regFlag [0x00#8] (inSpace_byte _)).2.writeControl 0x00#8).2
  else s.emit (inspectionEvents flag)

/-- The transactions of an inspection that zeroes or does not. -/
def zeroTrace (zero : Prop) [Decidable zero] : List Transaction :=
  if zero then [⟨txWrite regFlag 1, [0x00#8], true⟩, ⟨txWrite regControl 1, [0x00#8], true⟩] else []

section inspect

variable {s : State} {flag : Byte} (h : s.allSucceed 2)
include h

theorem State.performs_zeroFlag : State.Performs [⟨txWrite regFlag 1, [0x00#8], true⟩]
    (fun b v => if b = regFlag then 0x00#8 else v) (s.emit (inspectionEvents flag))
    ((s.emit (inspectionEvents flag)).memWrite regFlag [0x00#8] (inSpace_byte _)).2 :=
  State.performs_memWriteByte (s := s.emit (inspectionEvents flag)) _ _ (h 0 (by omega))

theorem State.performs_inspected : State.Performs (zeroTrace (btst flag maskAnyFlag = true))
    (fun b v => if btst flag maskAnyFlag = true ∧ (b = regFlag ∨ b = regControl) then 0x00#8 else v)
    (s.emit (inspectionEvents flag)) (s.inspected flag) := by
  unfold State.inspected zeroTrace
  split
  · next hz =>
    have hflag := State.performs_zeroFlag (flag := flag) h
    have hctrl := State.performs_writeControl
      (s := ((s.emit (inspectionEvents flag)).memWrite regFlag [0x00#8] (inSpace_byte _)).2) 0x00#8
    simp only [hflag.makes.next_ok h, decide_true] at hctrl
    obtain ⟨hm, hx⟩ := hflag.trans hctrl
    refine ⟨hm, fun b hq => (hx b hq).trans ?_⟩
    rw [writtenByte_one, hz]
    by_cases hb : b = regFlag <;> by_cases hc : b = regControl <;> simp [hb, hc, storesByte]
  · next hz => exact ⟨.refl _, fun b _ => (if_neg fun hc => hz hc.1).symm⟩

theorem State.inspectFlag_of_ok : s.inspectFlag flag
    = (s.inspected flag).finishInit (btst flag maskAnyFlag) (btst flag maskVLF) := by
  unfold State.inspectFlag State.inspected
  dsimp only
  split
  · next hz =>
    have hflag := State.performs_zeroFlag (flag := flag) h
    refine (State.writeThen_of_ok (s := s.emit (inspectionEvents flag)) (h 0 (by omega))).trans ?_
    refine (State.writeControlThen_of_ok (hflag.makes.next_ok h)).trans ?_
    rw [hz]
  · next hz => rw [Bool.eq_false_iff.mpr hz]; rfl

theorem State.inspected_cache : (s.inspected flag).cache = if btst flag maskAnyFlag then 0x00#8 else s.cache := by
  unfold State.inspected
  split
  · rw [State.writeControl_of_ok _ ((State.performs_zeroFlag (flag := flag) h).makes.next_ok h)]
    rfl
  · rfl

end inspect

/-! ## The whole operation -/

/-- An INIT that finished has armed or disarmed the pipeline, and keeps its cache. -/
theorem State.forgetCache_finishInit (s : State) (zeroed needsReset : Bool) :
    (s.finishInit zeroed needsReset).forgetCache = s.finishInit zeroed needsReset := by
  refine if_neg ?_
  cases hi : s.params.hasIrq <;> simp [State.finishInit, State.succeed, hi]

/-- INIT before its end. -/
def State.initialised (s : State) : State := s.extensionWritten.inspected (s.x regFlag)

section whole

variable {s : State} (h : s.allSucceed 6) (hu : s.undisturbed 6) (hw : s.params.wf = true)
include h hu hw

theorem State.performs_beforeInspection : State.Performs
    (loadTrace s.params (s.x regExtension) (s.x regFlag) (s.x regControl))
    (fun b v => if b = regExtension then initExtension (s.x regExtension) s.params.fselDefault
      else reservedByte s.params b v) s s.extensionWritten :=
  State.performs_extensionWritten (State.allSucceed_mono h (by omega)) (State.undisturbed_mono hu (by omega)) hw

theorem State.extensionWritten_allSucceed : s.extensionWritten.allSucceed 2 :=
  (State.performs_beforeInspection h hu hw).makes.allSucceed h

theorem State.performs_initialised : State.Performs (zeroTrace (btst (s.x regFlag) maskAnyFlag = true))
    (fun b v => if btst (s.x regFlag) maskAnyFlag = true ∧ (b = regFlag ∨ b = regControl) then 0x00#8 else v)
    (s.extensionWritten.emit (inspectionEvents (s.x regFlag))) s.initialised :=
  State.performs_inspected (State.extensionWritten_allSucceed h hu hw)

theorem State.initBody_of_ok : s.initBody
    = s.initialised.finishInit (btst (s.x regFlag) maskAnyFlag) (btst (s.x regFlag) maskVLF) := by
  rw [State.initBody, State.initSequence_of_ok (State.allSucceed_mono h (by omega))
    (State.undisturbed_mono hu (by omega)) hw,
    State.inspectFlag_of_ok (State.extensionWritten_allSucceed h hu hw), State.forgetCache_finishInit]
  rfl

theorem State.initialised_x (b : Addr) : s.initialised.x b =
    if btst (s.x regFlag) maskAnyFlag = true ∧ (b = regFlag ∨ b = regControl) then 0x00#8
    else if b = regExtension then initExtension (s.x regExtension) s.params.fselDefault
    else reservedByte s.params b (s.x b) := by
  have hext := State.performs_beforeInspection h hu hw
  have hquiet : State.undisturbed (s.extensionWritten.emit (inspectionEvents (s.x regFlag))) 2 :=
    hext.makes.undisturbed hu
  have hemit : State.x (s.extensionWritten.emit (inspectionEvents (s.x regFlag))) b = s.extensionWritten.x b := rfl
  rw [(State.performs_initialised h hu hw).x b (.inr (State.undisturbed_mono hquiet ?_)), hemit,
    hext.x b (.inr (State.undisturbed_mono hu (by simp [loadTrace])))]
  unfold zeroTrace
  split <;> simp

theorem State.initialised_cache : s.initialised.cache
    = if btst (s.x regFlag) maskAnyFlag then 0x00#8 else initControl (s.x regControl) := by
  have hcache : s.extensionWritten.cache = initControl (s.x regControl) := State.memWrite_cache _ _ _ _
  rw [State.initialised, State.inspected_cache (State.extensionWritten_allSucceed h hu hw), hcache]

theorem State.initialised_trace : s.initialised.trace = s.trace
    ++ (loadTrace s.params (s.x regExtension) (s.x regFlag) (s.x regControl)
      ++ zeroTrace (btst (s.x regFlag) maskAnyFlag = true)) := by
  rw [(State.performs_initialised h hu hw).makes.trace, State.emit_trace,
    (State.performs_beforeInspection h hu hw).makes.trace, List.append_assoc]

theorem State.initialised_events : s.initialised.events = s.events ++ inspectionEvents (s.x regFlag) := by
  rw [(State.performs_initialised h hu hw).makes.events, State.emit_events,
    (State.performs_beforeInspection h hu hw).makes.events]

end whole

/-- An undisturbed INIT without failures, and what it has made of the device before its end. -/
theorem exec_init_of_ok {s : State} (hp : s.phase = .fresh) (hl : s.lock = .free) (hw : s.params.wf = true)
    (h : s.allSucceed 6) (hu : s.undisturbed 6) : ∃ v : State,
    exec .init s = .next ((v.finishInit (btst (s.x regFlag) maskAnyFlag) (btst (s.x regFlag) maskVLF)).setLock .free)
      ∧ (∀ b, v.x b =
          if btst (s.x regFlag) maskAnyFlag = true ∧ (b = regFlag ∨ b = regControl) then 0x00#8
          else if b = regExtension then initExtension (s.x regExtension) s.params.fselDefault
          else reservedByte s.params b (s.x b))
      ∧ v.cache = (if btst (s.x regFlag) maskAnyFlag then 0x00#8 else initControl (s.x regControl))
      ∧ v.trace = s.trace ++ (loadTrace s.params (s.x regExtension) (s.x regFlag) (s.x regControl)
          ++ zeroTrace (btst (s.x regFlag) maskAnyFlag = true))
      ∧ v.events = s.events ++ inspectionEvents (s.x regFlag)
      ∧ v.shutdown = s.shutdown ∧ v.destroyed = s.destroyed ∧ v.params = s.params ∧ v.inputs = s.inputs := by
  have h' : (s.setLock .foreground).allSucceed 6 := h
  have hu' : (s.setLock .foreground).undisturbed 6 := hu
  have he := exec_init hp hl
  rw [State.initBody_of_ok h' hu' hw] at he
  have hm := (State.performs_beforeInspection h' hu' hw).makes
  have hn := (State.performs_initialised h' hu' hw).makes
  exact ⟨_, he, State.initialised_x h' hu' hw, State.initialised_cache h' hu' hw, State.initialised_trace h' hu' hw,
    State.initialised_events h' hu' hw, hn.shutdown.trans hm.shutdown, hn.destroyed.trans hm.destroyed,
    hn.params.trans hm.params, hn.inputs.trans hm.inputs⟩

/-- Settles O27: INIT's two parts, the registers byte by byte. -/
theorem initLeavesTheDeviceReady : Obligations.InitLeavesTheDeviceReady := by
  intro s hp hl hw h hu ext flag ctrl zero
  obtain ⟨v, he, hx, hcache, htrace, hevents, hshutdown, hdestroyed, hparams, hinputs⟩ :=
    exec_init_of_ok hp hl hw h hu
  have hzero : btst (s.x regFlag) maskAnyFlag = true ↔ zero := btst_iff_ne_zero _ _
  have hother {b : Addr} (hE : b ≠ regFlag) (hF : b ≠ regControl) (hD : b ≠ regExtension) :
      v.x b = reservedByte s.params b (s.x b) := by
    rw [hx, if_neg fun hc => hc.2.elim hE hF, if_neg hD]
  obtain ⟨hE0, hE1⟩ := Params.wf_not_named hw (a := regFlag) (by decide)
  obtain ⟨hF0, hF1⟩ := Params.wf_not_named hw (a := regControl) (by decide)
  obtain ⟨hD0, hD1⟩ := Params.wf_not_named hw (a := regExtension) (by decide)
  refine ⟨_, he, ?_, ?_, ?_, ?_, ?_, fun a h1D h1E h1F h0 h1 => ?_, ?_, ?_, ⟨_, htrace, ?_⟩, rfl, hzero, rfl,
    hshutdown, hdestroyed, hparams, hinputs⟩
  · rw [← btst_maskVLF]
    rfl
  · refine (hx regExtension).trans ?_
    rw [if_neg fun hc => absurd hc.2 (by decide), if_pos rfl, initExtension_eq]
    rfl
  · refine (hother hE0.symm hF0.symm hD0.symm).trans ?_
    rw [reservedByte, if_neg (Params.wf_distinct hw), if_pos rfl]
  · exact (hother hE1.symm hF1.symm hD1.symm).trans (if_pos rfl)
  · by_cases hz : zero
    · rw [if_pos hz]
      exact ⟨(hx regFlag).trans (if_pos ⟨hzero.mpr hz, .inl rfl⟩),
        (hx regControl).trans (if_pos ⟨hzero.mpr hz, .inr rfl⟩), hcache.trans (if_pos (hzero.mpr hz))⟩
    · have hnamed {b : Addr} (hb : b.isNamed = true) (hD : b ≠ regExtension) : v.x b = s.x b := by
        rw [hx, if_neg fun hc => hz (hzero.mp hc.1), if_neg hD, reservedByte_named hw hb]
      rw [if_neg hz]
      exact ⟨hnamed (b := regFlag) (by decide) (by decide), hnamed (b := regControl) (by decide) (by decide),
        hcache.trans (if_neg fun hc => hz (hzero.mp hc))⟩
  · refine (hother h1E h1F h1D).trans ?_
    rw [reservedByte, if_neg h1, if_neg h0]
  · rw [← hparams]
    rfl
  · rw [← btst_maskVLF]
    exact hevents
  · by_cases hz : zero
    · rw [zeroTrace, if_pos (hzero.mpr hz), if_pos hz]
      rfl
    · rw [zeroTrace, if_neg fun hc => hz (hzero.mp hc), if_neg hz]
      rfl

end Sys2Proof.Machine
end

section
/-! PROOFS. The error kinds that come before any transaction: a frame that is no operation (60_exceptions.md R244), and
an alarm operation on a device without a line (R243). -/

namespace Sys2Proof.Machine

/-- Settles O5: a rejected frame meets the check of `destroyed` alone. -/
theorem unknownOpcodeIsUnsupported : Obligations.UnknownOpcodeIsUnsupported := by
  intro s f rest hs hf
  rw [step_of_unknown hs hf, rejectFrame]
  by_cases hd : s.destroyed = true
  · rw [if_pos hd]
    exact State.whenNotDestroyed_destroyed (by simp [State.phase, hd]) _
  · rw [if_neg hd]
    exact State.whenNotDestroyed_of_ne (State.phase_ne_destroyed (s := s.setInputs rest) (by simpa using hd)) _

/-- A live device without a line refuses an alarm operation whatever the operation would do (42_alarm.md R180). -/
theorem State.whenAlarm_of_no_line {s : State} (hp : s.phase = .live) (hi : s.params.hasIrq = false)
    (go : Host.Outcome State Fault Refusal) : s.whenAlarm go = .next (s.raise .alarmUnsupported) := by
  rw [State.whenAlarm, State.whenLive_live hp, hi]
  rfl

/-- Settles O19: the check of the line comes first in each of the three. -/
theorem alarmUnsupportedWithoutALine : Obligations.AlarmUnsupportedWithoutALine := by
  intro i s h hp hi
  rcases h with rfl | ⟨a, rfl⟩ | ⟨e, rfl⟩
  · exact State.whenAlarm_of_no_line hp hi _
  · exact State.whenAlarm_of_no_line hp hi _
  · exact State.whenAlarm_of_no_line hp hi _

end Sys2Proof.Machine
end

section
/-! PROOFS. The Peripheral's five steps (60_exceptions.md R270 to R278): which Flag bits each sets, when the clock
moves and to which image, and when the alarm fires. -/

namespace Sys2Proof.Machine

/-! ## The flags the Peripheral sets -/

/-- A Peripheral step sets named flags, or none, and touches no other Flag bit (R271, R275 to R278). -/
theorem State.envStep_flag (s : State) (e : EnvStep) :
    ∃ mask : Byte, mask &&& ~~~maskAnyFlag = 0 ∧ (s.envStep e).x regFlag = s.x regFlag ||| mask := by
  cases e with
  | pOsc scramble =>
    refine ⟨maskVLF, rfl, ?_⟩
    exact (Memory.get_pOsc_other _ _ _ isTimeRegister_flag).trans (if_pos rfl)
  | pTime image => exact ⟨0, rfl, (Memory.get_pTime_flag _ _ _).trans (BitVec.or_zero).symm⟩
  | pAlarm dayTerm =>
    cases hm : Memory.alarmMatch s.regs dayTerm
    · exact ⟨0, rfl, by simp [State.envStep, State.x, Memory.get_pAlarm, hm]⟩
    · exact ⟨maskAF, rfl, by simp [State.envStep, State.x, Memory.get_pAlarm, hm]⟩
  | pTimer => exact ⟨maskTF, rfl, by simp [State.envStep, State.x, Memory.pTimer, Memory.get_setFlag]⟩
  | pUpdate => exact ⟨maskUF, rfl, by simp [State.envStep, State.x, Memory.pUpdate, Memory.get_setFlag]⟩
  | irq => exact ⟨0, rfl, (congrArg (·.x regFlag) s.takeInterrupt_eq).trans (BitVec.or_zero).symm⟩

theorem State.envStep_unnamed_flag_bits (s : State) (e : EnvStep) :
    (s.envStep e).x regFlag &&& ~~~maskAnyFlag = s.x regFlag &&& ~~~maskAnyFlag := by
  obtain ⟨mask, hmask, he⟩ := s.envStep_flag e
  rw [he, BitVec.and_comm, BitVec.and_or_distrib_left, BitVec.and_comm _ mask, hmask, BitVec.and_comm]
  exact BitVec.or_zero

/-- Only the IRQ step touches the core's side (R278). -/
theorem State.envStep_eq_setRegs (s : State) {e : EnvStep} (h : e ≠ .irq) :
    s.envStep e = s.setRegs (s.envStep e).regs := by
  cases e with
  | irq => exact absurd rfl h
  | _ => rfl

/-! ## The clock -/

/-- STOP clear in Control, as P-TIME tests it (R272). -/
theorem Memory.stopped_eq_false {m : Memory} (h : (Memory.get m regControl).getLsbD 6 = false) :
    Memory.stopped m = false := by
  rw [← Bool.not_eq_true, Memory.stopped_iff, h, Bool.not_eq_true]

theorem Memory.timeImage_pTime {m : Memory} (h : (Memory.get m regControl).getLsbD 6 = false) (advance : TimeAdvance)
    (draw : TimeImage) :
    Memory.timeImage (Memory.pTime m advance draw) = nextTimeImage advance (Memory.timeImage m) draw := by
  rw [Memory.pTime, Memory.stopped_eq_false h]
  exact Memory.timeImage_setTimeImage _ _

/-- Settles O43: P-TIMER, P-UPDATE and P-OSC by their definitions, the rest by what every Peripheral step keeps. -/
theorem peripheralSetsItsFlagsAndClearsNone : Obligations.PeripheralSetsItsFlagsAndClearsNone := by
  refine ⟨fun _ => rfl, fun _ => rfl, fun _ => rfl, fun s image => ⟨?_, fun hstop => ?_⟩, fun s e he =>
    ⟨fun k _ => s.envStep_flag_grows e k, s.envStep_unnamed_flag_bits e, s.envStep_x e, s.envStep_eq_setRegs he⟩⟩
  · exact (Memory.get_pOsc_other s.regs (some image) _ isTimeRegister_flag).trans (if_pos rfl)
  · have hc : Memory.get (Memory.setFlag s.regs maskVLF) regControl = s.x regControl :=
      (Memory.get_setFlag _ _ _).trans (if_neg (by decide))
    exact Memory.timeImage_pTime (hc ▸ hstop) .draw image

/-- Settles O44: STOP decides whether P-TIME stores the draw. -/
theorem clockAdvancesOnlyWhileStopIsClear : Obligations.ClockAdvancesOnlyWhileStopIsClear := by
  refine fun s image => ⟨fun hstop => ?_, fun hstop hdraw => ⟨?_, fun a ha => Memory.get_pTime_other _ _ _ a ha⟩⟩
  · rw [State.envStep, Memory.pTime_stopped _ _ ((Memory.stopped_iff _).mpr hstop)]
    rfl
  · rw [State.envStep, hdraw]
    exact Memory.timeImage_pTime hstop .draw image

/-! ## The calendar successor (R273) -/

theorem one_le_daysInMonth {m : Nat} (hlo : 1 ≤ m) (hhi : m ≤ 12) (y : Nat) : 1 ≤ daysInMonth m y := by
  rw [daysInMonth_eq hlo hhi]
  split_ifs <;> omega

/-- The successor with the carry into the day written in one record: the six ways a second can carry. -/
theorem calendarSucc_eq (t : CalendarTime) : calendarSucc t =
    if t.second < 59 then { t with second := t.second + 1 }
    else if t.minute < 59 then { t with second := 0, minute := t.minute + 1 }
    else if t.hour < 23 then { t with second := 0, minute := 0, hour := t.hour + 1 }
    else if t.mday < daysInMonth t.month t.year then
      { t with second := 0, minute := 0, hour := 0, weekday := (t.weekday + 1) % 7, mday := t.mday + 1 }
    else if t.month < 12 then
      { t with second := 0, minute := 0, hour := 0, weekday := (t.weekday + 1) % 7, mday := 1, month := t.month + 1 }
    else
      { t with second := 0, minute := 0, hour := 0, weekday := (t.weekday + 1) % 7, mday := 1, month := 1,
               year := (t.year + 1) % 100 } := rfl

theorem validTime_calendarSucc {t : CalendarTime} (h : validTime t = true) : validTime (calendarSucc t) = true := by
  obtain ⟨hs, hmin, hh, hw, hmlo, hmhi, hy, hdlo, hdhi⟩ := (validTime_iff t).mp h
  rw [calendarSucc_eq, validTime_iff]
  have hw' : (t.weekday + 1) % 7 ≤ 6 := Nat.le_of_lt_succ (Nat.mod_lt _ (by decide))
  have hy' : (t.year + 1) % 100 ≤ 99 := Nat.le_of_lt_succ (Nat.mod_lt _ (by decide))
  have zero (n : Nat) : 0 ≤ n := Nat.zero_le n
  split_ifs with second minute hour day month
  · exact ⟨second, hmin, hh, hw, hmlo, hmhi, hy, hdlo, hdhi⟩
  · exact ⟨zero _, minute, hh, hw, hmlo, hmhi, hy, hdlo, hdhi⟩
  · exact ⟨zero _, zero _, hour, hw, hmlo, hmhi, hy, hdlo, hdhi⟩
  · exact ⟨zero _, zero _, zero _, hw', hmlo, hmhi, hy, Nat.le_add_left 1 _, day⟩
  · have hmonth : 1 ≤ t.month + 1 := Nat.le_add_left 1 _
    exact ⟨zero _, zero _, zero _, hw', hmonth, month, hy, le_rfl, one_le_daysInMonth hmonth month _⟩
  · have january : 1 ≤ 12 := by decide
    exact ⟨zero _, zero _, zero _, hw', le_rfl, january, hy', le_rfl, one_le_daysInMonth le_rfl january _⟩

/-- Settles O45: P-TIME stores the image R273 names, and ENCODE of the successor, being valid, decodes to it. -/
theorem calendarSuccessorIsOneSecond : Obligations.CalendarSuccessorIsOneSecond := by
  refine ⟨fun s image hstop hsucc => ?_, fun t ht => ⟨validTime_calendarSucc ht, calendarSucc_eq t⟩⟩
  have stored : Memory.timeImage (s.envStep (.pTime image)).regs
      = nextTimeImage .calsucc (Memory.timeImage s.regs) image := by
    rw [State.envStep, hsucc]
    exact Memory.timeImage_pTime hstop .calsucc image
  cases hd : decodeImage (Memory.timeImage s.regs) with
  | none => simpa only [nextTimeImage, hd] using stored
  | some t =>
    obtain ⟨hvalid, hfields⟩ := (decodeImage_eq_some_iff _ _).mp hd
    have himage : Memory.timeImage (s.envStep (.pTime image)).regs = encodeImage (calendarSucc t) := by
      simpa only [nextTimeImage, hd] using stored
    refine ⟨?_, himage⟩
    rw [himage]
    exact decodeImage_encodeImage (validTime_calendarSucc (hfields ▸ hvalid))

/-! ## The alarm (R274, R275) -/

theorem alarmTerm_iff (alarm time mask : Byte) :
    alarmTerm alarm time mask = true ↔ alarm.getLsbD 7 = true ∨ alarm &&& mask = time &&& mask := by
  rw [alarmTerm, btst_maskAE, Bool.or_eq_true, beq_iff_eq]

/-- WADA is bit 3 of Extension (10_state.md R33). -/
theorem btst_maskWADA (b : Byte) : btst b maskWADA = b.getLsbD 3 := btst_maskAIE b

theorem Memory.alarmMatch_iff (m : Memory) (dayTerm : Bool) : Memory.alarmMatch m dayTerm = true ↔
    alarmTerm (Memory.get m regAlarmMin) (Memory.get m regMin) maskAlarmMin = true
    ∧ alarmTerm (Memory.get m regAlarmHour) (Memory.get m regHour) maskAlarmHour = true
    ∧ if (Memory.get m regExtension).getLsbD 3 = wadaMday
      then alarmTerm (Memory.get m regAlarmDay) (Memory.get m regMday) maskAlarmDay = true else dayTerm = true := by
  rw [Memory.alarmMatch, btst_maskWADA, Bool.and_eq_true, Bool.and_eq_true, and_assoc]
  split <;> rfl

/-- Settles O46: the match is R274's, term by term, and AF is set on it alone. -/
theorem alarmFiresOnTheMatch : Obligations.AlarmFiresOnTheMatch := by
  intro s dayTerm
  have hmatch := Memory.alarmMatch_iff s.regs dayTerm
  simp only [alarmTerm_iff] at hmatch
  refine ⟨fun h => ?_, fun h => ?_⟩
  · rw [State.envStep, Memory.pAlarm, if_pos (hmatch.mpr h)]
    rfl
  · rw [State.envStep, Memory.pAlarm, if_neg (mt hmatch.mp h)]
    rfl

end Sys2Proof.Machine
end

section
/-! PROOFS. One pass of the deferred task (60_exceptions.md R255, R256) on each of its three paths, and the events it
raises (R260). -/

namespace Sys2Proof.Machine

/-! ## The Flag byte of a pass -/

/-- TF is bit 4 of Flag (10_state.md R34). -/
theorem btst_maskTF (b : Byte) : btst b maskTF = b.getLsbD 4 := by
  revert b
  decide

/-- UF is bit 5 of Flag (10_state.md R34). -/
theorem btst_maskUF (b : Byte) : btst b maskUF = b.getLsbD 5 := by
  revert b
  decide

/-- Clearing a flag that is clear changes nothing, so a pass clears all three at once. -/
theorem drainedFlag_eq (f : Byte) : drainedFlag f = f &&& ~~~0x38#8 := by
  revert f
  decide

/-- The events of a pass, one for each of VLF, TF, AF, UF (R255). -/
def eventsOf (vlf tf af uf : Bool) : List Event :=
  (if vlf then [.clockUnreliable] else []) ++ (if tf then [.periodicTick] else [])
    ++ (if af then [.alarmFired] else []) ++ (if uf then [.updateTick] else [])

theorem drainedEvents_eq (f : Byte) :
    drainedEvents f = eventsOf (f.getLsbD 1) (f.getLsbD 4) (f.getLsbD 3) (f.getLsbD 5) := by
  simp only [drainedEvents, flagState, btst_maskVLF, btst_maskTF, btst_maskAF, btst_maskUF]
  rfl

/-! ## Flag drained, path by path -/

section paths

variable (s : State)

theorem State.interleave_emit (es : List Event) : (s.emit es).interleave = s.interleave.emit es := by
  rw [State.interleave_eq_skip, State.interleave_eq_skip, State.choiceAt_emit, State.envSteps_eq _ (s.skipChoices 1)]
  exact State.envSteps_of_congr (s := (s.emit es).skipChoices 1) (t := s.skipChoices 1) _ rfl rfl rfl rfl

theorem State.waited_events (n : Nat) : (s.waited n).events = s.events := State.envSteps_events s _

/-- Where a pass stands before its re-arm: `n` transactions made, which are `new`, the registers at `m`, and the events
`es` raised. -/
def State.drained (n : Nat) (m : Memory) (es : List Event) (new : List Transaction) : State :=
  { s.waited n with regs := m, events := s.events ++ es, trace := s.trace ++ new }

/-- The read of a pass that succeeds. -/
def State.flagRead : Transaction := ⟨txRead regFlag 1, [(s.waited 1).x regFlag], true⟩

variable {s}

/-- A failed read is reported, and nothing is written (R256). -/
theorem State.drainFlags_of_read_fails (h : (s.choiceAt 0).outcome ≠ .ok) : s.drainFlags
    = s.drained 1 (s.waited 1).regs [.passError .read] [⟨txRead regFlag 1, [], false⟩] := by
  rw [State.drainFlags, State.memRead_of_not_ok _ _ _ h, State.interleave_eq_waited, State.drained,
    ← State.waited_events s 1, ← State.waited_trace s 1]
  rfl

/-- The byte read decides the events and the byte written, and a failed write is reported (R255, R256). -/
theorem State.drainFlags_of_read_ok (h : (s.choiceAt 0).outcome = .ok) {w : Bool × State}
    (hw : ((s.interleave.record s.flagRead).emit (drainedEvents ((s.waited 1).x regFlag))).memWrite regFlag
      [drainedFlag ((s.waited 1).x regFlag)] (inSpace_byte _) = w) :
    s.drainFlags = if w.1 then w.2 else w.2.emit [.passError .write] := by
  have hr : s.memRead regFlag 1 (inSpace_byte _)
      = (some [(s.waited 1).x regFlag], s.interleave.record s.flagRead) := by
    rw [State.memRead_of_ok _ _ _ h, State.flagRead, ← State.interleave_eq_waited]
    rfl
  simp only [State.drainFlags, hr, List.getD_cons_zero, hw]
  obtain ⟨_ | _, u⟩ := w <;> rfl

/-- The state a pass writes Flag in, and what it is after the write has stored `m` and been recorded. -/
theorem State.drained_of_flagWrite (es : List Event) (m : Memory) (tx : Transaction) :
    (((s.interleave.record s.flagRead).emit es).interleave.setRegs m).record tx
      = s.drained 2 m es [s.flagRead, tx] := by
  rw [State.interleave_emit, State.interleave_record_interleave, State.drained, ← State.waited_events s 2,
    ← State.waited_trace s 2]
  simp [State.record, State.emit, State.setRegs]

theorem State.regs_before_flagWrite (es : List Event) :
    ((s.interleave.record s.flagRead).emit es).interleave.regs = (s.waited 2).regs := by
  rw [State.interleave_emit, State.interleave_record_interleave]
  rfl

theorem State.drainFlags_of_ok (h0 : (s.choiceAt 0).outcome = .ok) (h1 : (s.choiceAt 1).outcome = .ok) : s.drainFlags
    = s.drained 2 (Memory.set (s.waited 2).regs regFlag (drainedFlag ((s.waited 1).x regFlag)))
      (drainedEvents ((s.waited 1).x regFlag))
      [s.flagRead, ⟨txWrite regFlag 1, [drainedFlag ((s.waited 1).x regFlag)], true⟩] := by
  rw [State.drainFlags_of_read_ok h0 (State.memWrite_of_ok _ _ _ (by simpa using h1)), State.regs_before_flagWrite,
    State.drained_of_flagWrite]
  rfl

theorem Memory.writeSome_nil (m : Memory) (a : Nat) (stored : List Bool) : Memory.writeSome m a stored [] = m := by
  rcases stored with _ | ⟨_ | _, _⟩ <;> rfl

/-- One byte offered by a failed write is stored or not (20_memory.md R69). -/
theorem Memory.writeSome_byte (m : Memory) (a : Addr) (stored : List Bool) (v : Byte) :
    Memory.writeSome m a.toNat stored [v] = if stored.getD 0 false then Memory.set m a v else m := by
  rcases stored with _ | ⟨_ | _, ks⟩
  · rfl
  · exact Memory.writeSome_nil m _ ks
  · exact Memory.writeSome_nil (Memory.set m a v) _ ks

/-- A failed write keeps the events and adds its own (R256). -/
theorem State.drainFlags_of_write_fails {stored : List Bool} (h0 : (s.choiceAt 0).outcome = .ok)
    (h1 : (s.choiceAt 1).outcome = .fails stored) : s.drainFlags
    = s.drained 2 (if stored.getD 0 false then
        Memory.set (s.waited 2).regs regFlag (drainedFlag ((s.waited 1).x regFlag)) else (s.waited 2).regs)
      (drainedEvents ((s.waited 1).x regFlag) ++ [.passError .write])
      [s.flagRead, ⟨txWrite regFlag 1, [drainedFlag ((s.waited 1).x regFlag)], false⟩] := by
  rw [State.drainFlags_of_read_ok h0 (State.memWrite_of_fails _ _ _ (by simpa using h1)), State.regs_before_flagWrite,
    State.drained_of_flagWrite, Memory.writeSome_byte, State.drained, State.drained, ← List.append_assoc]
  rfl

end paths

/-! ## The turn of the pass -/

section turn

variable {s : State} {rest : List Input}

/-- The state a pass begins in: its turn taken off the schedule, the lock taken. -/
def State.passBegun (s : State) (rest : List Input) : State := (s.setInputs rest).setLock .deferred

theorem State.envSteps_passBegun (es : List EnvStep) :
    (s.passBegun rest).envSteps es = (s.envSteps es).passBegun rest :=
  (State.envSteps_of_congr (s := s.passBegun rest) (t := s) es rfl rfl rfl rfl).trans
    (congrArg (·.passBegun rest) (State.envSteps_eq es s).symm)

theorem State.waited_passBegun (n : Nat) : (s.passBegun rest).waited n = (s.waited n).passBegun rest :=
  congrArg (·.skipChoices n) (State.envSteps_passBegun (s.stepsBefore n))

/-- The whole step, from where the pass stands before its re-arm. -/
theorem step_of_drained (hi : s.inputs = .turn .drain :: rest) (hp : s.pstate = .handling) (hd : s.destroyed = false)
    (hl : s.lock = .free) {n : Nat} {m : Memory} {es : List Event} {new : List Transaction}
    (h : (s.passBegun rest).drainFlags = (s.passBegun rest).drained n m es new) :
    step s = .next { s.envSteps (s.stepsBefore n) with
      inputs := rest
      choices := (s.skipChoices n).choices
      drawCount := (s.skipChoices n).drawCount
      regs := m
      events := s.events ++ es
      trace := s.trace ++ new
      pstate := if s.shutdown then .disarmed else .armed } := by
  have hpass : (s.setInputs rest).drainPass = ((s.passBegun rest).drainFlags.rearm).setLock .free := rfl
  rw [step_drain hp hd hi, if_pos hl, hpass, h, State.drained, State.waited_passBegun]
  simp [State.rearm, State.setPState, State.setLock, State.setInputs, State.passBegun, State.waited,
    State.skipChoices, hl]

end turn

/-- Settles O39: the outcomes of the two transactions decide between the three paths. -/
theorem passDrainsTheFlagRegister : Obligations.PassDrainsTheFlagRegister := by
  intro s rest hi hp hd hl u v f g found after
  have hread : (((s.passBegun rest).waited 1).x regFlag) = f := by rw [State.waited_passBegun]; rfl
  have hregs : ((s.passBegun rest).waited 2).regs = v.regs := by rw [State.waited_passBegun]; rfl
  have hfound : drainedEvents f = found := drainedEvents_eq f
  have hflag : drainedFlag f = g := drainedFlag_eq f
  cases h0 : (s.choiceAt 0).outcome with
  | fails stored =>
    have h : ((s.passBegun rest).choiceAt 0).outcome ≠ .ok := by simp [State.passBegun, h0]
    rw [step_of_drained hi hp hd hl (State.drainFlags_of_read_fails h), State.waited_passBegun]
    rfl
  | ok =>
    cases h1 : (s.choiceAt 1).outcome with
    | ok =>
      have h := State.drainFlags_of_ok (s := s.passBegun rest) h0 h1
      rw [State.flagRead, hread, hregs, hfound, hflag] at h
      exact step_of_drained hi hp hd hl h
    | fails stored =>
      have h := State.drainFlags_of_write_fails (s := s.passBegun rest) h0 h1
      rw [State.flagRead, hread, hregs, hfound, hflag] at h
      rw [step_of_drained hi hp hd hl h, ← List.append_assoc]
      rfl

/-! ## One event for each flag (R260) -/

/-- The events of the three kinds that TF, AF and UF raise. -/
def flagEvents (es : List Event) : List Event :=
  es.filter fun e => e == .periodicTick || e == .alarmFired || e == .updateTick

theorem flagEvents_append (es fs : List Event) : flagEvents (es ++ fs) = flagEvents es ++ flagEvents fs :=
  List.filter_append ..

theorem flagEvents_eventsOf (vlf tf af uf : Bool) :
    (flagEvents (eventsOf vlf tf af uf)).length = (if af then 1 else 0) + (if tf then 1 else 0) + (if uf then 1 else 0)
      ∧ (flagEvents (eventsOf vlf tf af uf)).Nodup := by
  revert vlf tf af uf
  decide

theorem three_flags_set {f : Byte} (h : f &&& 0x38 = 0x38) :
    f.getLsbD 3 = true ∧ f.getLsbD 4 = true ∧ f.getLsbD 5 = true := by
  revert f
  decide

theorem and_not_and_self (f m : Byte) : f &&& ~~~m &&& m = 0 := by
  rw [BitVec.and_assoc, BitVec.and_comm (~~~m), BitVec.and_not_self]
  exact BitVec.and_zero

/-- Settles O40: the next state of the pass, whose events are counted and whose Flag writes are read off the trace. -/
theorem passRaisesOneEventPerFlag : Obligations.PassRaisesOneEventPerFlag := by
  intro s rest hi hp hd hl f ofKinds
  have hstep := passDrainsTheFlagRegister s rest hi hp hd hl
  obtain ⟨hcount, hnodup⟩ := flagEvents_eventsOf (f.getLsbD 1) (f.getLsbD 4) (f.getLsbD 3) (f.getLsbD 5)
  cases h0 : (s.choiceAt 0).outcome with
  | fails stored =>
    rw [h0] at hstep
    refine ⟨_, _, _, hstep, rfl, rfl, nofun, fun _ hall => ?_, fun _ => ⟨rfl, rfl⟩⟩
    exact absurd ((hall 0 (by decide)).symm.trans h0) nofun
  | ok =>
    cases h1 : (s.choiceAt 1).outcome with
    | ok =>
      rw [h0, h1] at hstep
      refine ⟨_, _, _, hstep, rfl, rfl, fun _ => ⟨hcount, hnodup, rfl⟩, fun hset _ => ⟨?_, ?_⟩, fun h => absurd rfl h⟩
      · obtain ⟨haf, htf, huf⟩ := three_flags_set hset
        exact hcount.trans (by rw [haf, htf, huf]; rfl)
      · rw [State.x, Memory.get_set, if_pos rfl]
        exact and_not_and_self _ _
    | fails stored =>
      rw [h0, h1] at hstep
      have hkinds : ofKinds (eventsOf (f.getLsbD 1) (f.getLsbD 4) (f.getLsbD 3) (f.getLsbD 5) ++ [.passError .write])
          = flagEvents (eventsOf (f.getLsbD 1) (f.getLsbD 4) (f.getLsbD 3) (f.getLsbD 5)) :=
        (flagEvents_append _ _).trans (List.append_nil _)
      rw [← hkinds] at hcount hnodup
      refine ⟨_, _, _, hstep, ?_, rfl, fun _ => ⟨hcount, hnodup, rfl⟩, fun _ hall => ?_, fun h => absurd rfl h⟩
      · exact List.append_assoc ..
      · exact absurd ((hall 1 (by decide)).symm.trans h1) nofun

end Sys2Proof.Machine
end

section
/-! PROOFS. The sequencer (60_exceptions.md R253, R254): the IRQ step is the one step of another agent that moves it,
and every step of the machine moves it along R253's transitions only. -/

namespace Sys2Proof.Machine

/-! ## The IRQ step -/

/-- IRQ is enabled where the pipeline is armed, the line asserted and the device alive (R254). -/
theorem State.irqEnabled_iff (s : State) :
    s.irqEnabled = true ↔ s.pstate = .armed ∧ s.irqOut = true ∧ s.destroyed = false := by
  rw [State.irqEnabled, Bool.and_eq_true, Bool.and_eq_true, Bool.not_eq_true', State.lineEnabled, beq_iff_eq, and_assoc]

/-- AIE, TIE and UIE stand at the bits of AF, TF and UF (R251). -/
theorem irqLevel_eq (f c : Byte) : irqLevel f c
    = (f.getLsbD 3 && c.getLsbD 3 || f.getLsbD 4 && c.getLsbD 4 || f.getLsbD 5 && c.getLsbD 5) := by
  have hTIE : btst c maskTIE = c.getLsbD 4 := btst_maskTF c
  have hUIE : btst c maskUIE = c.getLsbD 5 := btst_maskUF c
  rw [irqLevel, btst_maskAF, btst_maskTF, btst_maskUF, btst_maskAIE, hTIE, hUIE]

/-- Settles O38: the turn takes the interrupt exactly where IRQ is enabled. -/
theorem interruptEntryChangesOnlyTheSequencer : Obligations.InterruptEntryChangesOnlyTheSequencer := by
  intro s rest hs f c
  have henabled : (s.setInputs rest).irqEnabled = true ↔ s.pstate = .armed ∧ s.destroyed = false
      ∧ (f.getLsbD 3 && c.getLsbD 3 || f.getLsbD 4 && c.getLsbD 4 || f.getLsbD 5 && c.getLsbD 5) = true := by
    rw [State.irqEnabled_iff, and_comm (a := _ = true), ← irqLevel_eq]
    rfl
  rw [step_of_turn hs, State.takeTurn, State.envStep, State.takeInterrupt]
  simp only [henabled]
  rfl

theorem State.envStep_pstate_of_ne_irq (s : State) {e : EnvStep} (h : e ≠ .irq) : (s.envStep e).pstate = s.pstate := by
  rw [State.envStep_eq_setRegs s h, State.setRegs_pstate]

/-- Of the other agents' steps IRQ alone moves `pstate`, where it is enabled (R254). -/
theorem State.envStep_pstate_ne_iff (s : State) (e : EnvStep) : (s.envStep e).pstate ≠ s.pstate ↔
    e = .irq ∧ s.pstate = .armed ∧ s.irqOut = true ∧ s.destroyed = false ∧ (s.envStep e).pstate = .handling := by
  constructor
  · intro h
    obtain rfl : e = .irq := Decidable.byContradiction fun he => h (s.envStep_pstate_of_ne_irq he)
    by_cases hen : s.irqEnabled = true
    · obtain ⟨harmed, hout, hlive⟩ := s.irqEnabled_iff.mp hen
      exact ⟨rfl, harmed, hout, hlive, congrArg State.pstate (if_pos hen)⟩
    · exact absurd (congrArg State.pstate (if_neg hen)) h
  · rintro ⟨-, harmed, -, -, hhandling⟩
    rw [harmed, hhandling]
    decide

/-! ## The interrupt inside an operation -/

theorem State.envSteps_pstate_of_no_irq {es : List EnvStep} (h : .irq ∉ es) (s : State) :
    (s.envSteps es).pstate = s.pstate := by
  induction es generalizing s with
  | nil => rfl
  | cons e t ih =>
    obtain ⟨he, ht⟩ := not_or.mp (mt List.mem_cons.mpr h)
    rw [State.envSteps, ih ht, s.envStep_pstate_of_ne_irq (Ne.symm he)]

/-- Before a transaction `pstate` stays, or the armed pipeline takes the interrupt by an IRQ step (20_memory.md R78). -/
theorem State.interleave_takes_irq (s : State) : s.interleave.pstate = s.pstate
    ∨ s.pstate = .armed ∧ s.interleave.pstate = .handling ∧ .irq ∈ (s.choiceAt 0).steps := by
  by_cases h : .irq ∈ (s.choiceAt 0).steps
  · exact s.interleave_pstate.imp_right fun ⟨ha, hh⟩ => ⟨ha, hh, h⟩
  · rw [State.interleave_eq_skip]
    exact .inl (State.envSteps_pstate_of_no_irq h _)

/-- From `s` to `t` `pstate` stays, or an IRQ step before one of the transactions made takes the armed pipeline to
Handling. -/
def State.Sequenced (s t : State) : Prop :=
  t.pstate = s.pstate ∨ s.pstate = .armed ∧ t.pstate = .handling
    ∧ ∃ k, s.trace.length + k < t.trace.length ∧ .irq ∈ (s.choiceAt k).steps

/-- One transaction before the rest: its choice is the next one, and the other agents have stepped as it says. -/
theorem State.Sequenced.after {s u t : State} {tx : Transaction} (hm : State.Makes [tx] s u)
    (hp : u.pstate = s.interleave.pstate) (he : u.Extends t) (h : State.Sequenced u t) : State.Sequenced s t := by
  have hlen : u.trace.length = s.trace.length + 1 := by rw [hm.trace, List.length_append]; rfl
  have hgrows : u.trace.length ≤ t.trace.length := by
    obtain ⟨more, hmore⟩ := he.trace
    rw [← hmore, List.length_append]
    omega
  rcases s.interleave_takes_irq with hstay | ⟨harmed, hhandling, hirq⟩
  · rw [hstay] at hp
    rcases h with hsame | ⟨harmed, hhandling, k, hk, hirq⟩
    · exact .inl (hsame.trans hp)
    · rw [hm.choiceAt, List.length_singleton, Nat.add_comm] at hirq
      exact .inr ⟨hp ▸ harmed, hhandling, k + 1, by omega, hirq⟩
  · rw [hhandling] at hp
    rcases h with hsame | ⟨harmed', -⟩
    · exact .inr ⟨harmed, hsame.trans hp, 0, by omega, hirq⟩
    · exact absurd (hp.symm.trans harmed') nofun

section pstate

variable (s : State)

theorem State.memRead_pstate (a : Addr) (n : Nat) (i : inSpace a n) :
    (s.memRead a n i).2.pstate = s.interleave.pstate := by
  obtain ⟨tx, e⟩ := s.memRead_snd a n i
  rw [e]; rfl

theorem State.memWrite_pstate (a : Addr) (vs : List Byte) (i : inSpace a vs.length) :
    (s.memWrite a vs i).2.pstate = s.interleave.pstate := by
  obtain ⟨ks, tx, e⟩ := s.memWrite_snd a vs i
  rw [e]; rfl

theorem State.writeControl_pstate (v : Byte) : (s.writeControl v).2.pstate = s.interleave.pstate := by
  rcases s.writeControl_snd v with e | e
  · rw [e]; exact s.memWrite_pstate ..
  · rw [e]; exact s.memWrite_pstate ..

end pstate

/-- A run without INIT's arming moves `pstate` by the interrupt only. -/
theorem Run.sequenced {ok : TxInfo → Prop} {sep : Bool} {s t : State} (h : Run ok false sep s t) :
    State.Sequenced s t := by
  induction h with
  | done => exact .inl rfl
  | read s t a n i _ hrest ih =>
    obtain ⟨tx, -, hm⟩ := State.makes_memRead_any (s := s) a n i
    exact ih.after hm (s.memRead_pstate a n i) hrest.extends
  | write s t a vs i _ _ hrest ih =>
    obtain ⟨tx, -, hm⟩ := State.makes_memWrite_any (s := s) a vs i
    exact ih.after hm (s.memWrite_pstate a vs i) hrest.extends
  | control s t v _ hrest ih =>
    obtain ⟨tx, -, hm⟩ := State.makes_writeControl_any (s := s) v
    exact ih.after hm (s.writeControl_pstate v) hrest.extends
  | emit s t es _ ih => exact ih
  | result s t r _ ih => exact ih
  | load s t v hi => cases hi
  | finish s t z n hi => cases hi

/-! ## R253's transitions -/

section transitions

variable {s t : State}

theorem sequencerMay_of_eq (h : t.pstate = s.pstate) : sequencerMay s t := by
  rw [sequencerMay, h]
  cases s.pstate <;> trivial

theorem sequencerMay_of_interrupt (hs : s.pstate = .armed) (ht : t.pstate = .handling) (h : takesInterrupt s t) :
    sequencerMay s t := by
  rwa [sequencerMay, hs, ht]

theorem sequencerMay_of_init (hs : s.pstate = .unarmed) (hop : s.nextOperation = some .init)
    (ht : t.pstate = if s.params.hasIrq then .armed else .disarmed) : sequencerMay s t := by
  rw [sequencerMay, hs, ht]
  cases s.params.hasIrq with
  | true => exact ⟨hop, rfl⟩
  | false => exact .inl ⟨hop, rfl⟩

theorem sequencerMay_of_shutdown (hop : s.nextOperation = some .shutdown) (ht : t.pstate = .disarmed)
    (hshut : t.shutdown = true) : sequencerMay s t := by
  rw [sequencerMay, ht]
  cases s.pstate with
  | unarmed => exact .inr ⟨hop, hshut⟩
  | armed => exact ⟨hop, hshut⟩
  | handling => exact .inr ⟨hop, hshut⟩
  | disarmed => trivial

theorem sequencerMay_of_drain (hs : s.pstate = .handling) (hi : s.nextInput = .turn .drain)
    (ht : t.pstate = if s.shutdown then .disarmed else .armed) : sequencerMay s t := by
  rw [sequencerMay, hs, ht]
  cases s.shutdown with
  | true => exact .inl ⟨hi, rfl⟩
  | false => exact ⟨hi, rfl⟩

/-! ## Operations -/

theorem exec_pure_pstate {i : Instr} (hi : isPure i = true) (h : exec i s = .next t) : t.pstate = s.pstate := by
  cases i with
  | bcd2bin _ | bin2bcd _ | decode _ | encode _ | btst _ _ | bset _ _ | bclr _ _ => cases h; rfl
  | getTime | setTime _ | getAlarm | setAlarm _ | alarmEn _ | init | shutdown => cases hi

theorem exec_liveIo_phase {i : Instr} (hi : isLiveIo i = true) (h : exec i s = .next t) : s.phase = .live := by
  obtain ⟨u, e⟩ := exec_liveIo hi s
  exact (State.whenLive_next (e.symm.trans h)).1

/-- An I/O operation of the live phase returns at once, waits, or makes a run of transactions under the lock. -/
theorem exec_liveIo_sequenced {i : Instr} (hi : isLiveIo i = true) (h : exec i s = .next t) : State.Sequenced s t := by
  rcases exec_cases h with ⟨r, rfl⟩ | ⟨-, rfl⟩ | ⟨-, -, u, rfl, hrun⟩ | ⟨-, rfl, -⟩
  · exact .inl rfl
  · exact .inl rfl
  · have hne : i ≠ .init := by rintro rfl; cases hi
    have hrun := hrun false nofun
    rw [decide_eq_false hne] at hrun
    exact hrun.sequenced
  · cases hi

/-- INIT arms or disarms the pipeline at its end, and leaves it unarmed where it fails or waits (43_device.md R213). -/
theorem exec_init_pstate (h : exec .init s = .next t) : s.pstate = .unarmed
    ∧ (t.pstate = s.pstate ∨ t.pstate = if s.params.hasIrq then .armed else .disarmed) := by
  obtain ⟨hp, rfl | ⟨hl, -⟩⟩ := execInit_cases h
  · exact ⟨((State.phase_fresh_iff s).mp hp).2, .inl rfl⟩
  · have hs := ((State.phase_fresh_iff s).mp hp).2
    obtain ⟨u, new, hu, -, hend⟩ := initSucceedsOrLeavesTheDeviceFresh s hp hl
    obtain rfl : u = t := Host.Outcome.next.inj (hu.symm.trans h)
    rcases hend with ⟨-, harmed, -⟩ | ⟨_, _, -, -, -, -, hfresh, -⟩
    · exact ⟨hs, .inr harmed⟩
    · exact ⟨hs, .inl (((State.phase_fresh_iff u).mp hfresh).2.trans hs.symm)⟩

/-- SHUTDOWN ends Disarmed with `shutdown` set, or waits (43_device.md R214). -/
theorem exec_shutdown_pstate (h : exec .shutdown s = .next t) :
    t.pstate = s.pstate ∨ t.pstate = .disarmed ∧ t.shutdown = true := by
  rw [exec_shutdown (State.whenNotDestroyed_next h).1] at h
  split at h
  · cases h; exact .inr ⟨s.teardown_leaves.1, s.teardown_ends.1⟩
  · cases h; exact .inl rfl

theorem instr_class_cases (i : Instr) : isPure i = true ∨ isLiveIo i = true ∨ i = .init ∨ i = .shutdown := by
  cases i with
  | bcd2bin _ | bin2bcd _ | decode _ | encode _ | btst _ _ | bset _ _ | bclr _ _ => exact .inl rfl
  | getTime | setTime _ | getAlarm | setAlarm _ | alarmEn _ => exact .inr (.inl rfl)
  | init => exact .inr (.inr (.inl rfl))
  | shutdown => exact .inr (.inr (.inr rfl))

/-- The operation that is next moves `pstate` along its own rows. -/
theorem exec_sequencerMay {i : Instr} {rest : List Input} (hop : s.nextOperation = some i)
    (h : exec i (s.setInputs rest) = .next t) : sequencerMay s t := by
  rcases instr_class_cases i with hi | hi | rfl | rfl
  · exact sequencerMay_of_eq (exec_pure_pstate (s := s.setInputs rest) hi h)
  · have hlive : s.phase = .live := exec_liveIo_phase (s := s.setInputs rest) hi h
    rcases exec_liveIo_sequenced hi h with hstay | ⟨harmed, hhandling, k, hk, hirq⟩
    · exact sequencerMay_of_eq hstay
    · exact sequencerMay_of_interrupt harmed hhandling (.inr ⟨i, k, hop, hi, hlive, hk, hirq⟩)
  · obtain ⟨hs, hstay | hends⟩ := exec_init_pstate h
    · exact sequencerMay_of_eq hstay
    · exact sequencerMay_of_init hs hop hends
  · rcases exec_shutdown_pstate h with hstay | ⟨hdisarmed, hshut⟩
    · exact sequencerMay_of_eq hstay
    · exact sequencerMay_of_shutdown hop hdisarmed hshut

/-! ## Turns -/

/-- A pass re-arms the line, or leaves it disarmed where `shutdown` is set (R255). -/
theorem State.drain_pstate (s : State) : s.drain.pstate = s.pstate
    ∨ s.pstate = .handling ∧ s.drain.pstate = if s.shutdown then .disarmed else .armed := by
  rcases s.drain_run with ⟨l, e⟩ | ⟨hp, -, u, hrun, e⟩
  · exact .inl (by rw [e, State.setInputs_pstate])
  · have hshut : u.shutdown = s.shutdown := (State.shell_eq_iff.mp hrun.shell_eq).1
    exact .inr ⟨hp, by rw [e, ← hshut]; rfl⟩

/-- Another agent's turn moves `pstate` by IRQ or by the end of a pass. -/
theorem takeTurn_sequencerMay {u : Turn} (hi : s.nextInput = .turn u) : sequencerMay s (s.advanceInput.takeTurn u) := by
  obtain ⟨l, n, hadv⟩ : ∃ l n, s.advanceInput = { s with inputs := l, drawCount := n } :=
    ⟨_, _, s.advanceInput_eq⟩
  rw [hadv]
  cases u with
  | idle => exact sequencerMay_of_eq rfl
  | env e =>
    by_cases hstay : (State.envStep { s with inputs := l, drawCount := n } e).pstate = s.pstate
    · exact sequencerMay_of_eq hstay
    · obtain ⟨rfl, harmed, hout, hlive, hhandling⟩ := (State.envStep_pstate_ne_iff _ e).mp hstay
      exact sequencerMay_of_interrupt harmed hhandling (.inl ⟨hi, hout, hlive⟩)
  | drain =>
    rcases State.drain_pstate { s with inputs := l, drawCount := n } with hstay | ⟨hs, hends⟩
    · exact sequencerMay_of_eq hstay
    · exact sequencerMay_of_drain hs hi hends

end transitions

/-- Settles O42: an operation, a rejected frame and a turn each move `pstate` along R253's rows. -/
theorem sequencerFollowsItsTransitions : Obligations.SequencerFollowsItsTransitions := by
  refine ⟨fun s t h => ?_, State.envStep_pstate_ne_iff⟩
  rcases step_cases h with ⟨f, rest, i, hs, hf, he⟩ | ⟨f, rest, e, -, -, -, rfl⟩ | ⟨rest, i, hs, he⟩ | ⟨u, hi, rfl⟩
  · exact exec_sequencerMay (State.nextOperation_issue hs hf) he
  · exact sequencerMay_of_eq rfl
  · exact exec_sequencerMay (State.nextOperation_call hs) he
  · exact takeTurn_sequencerMay hi

end Sys2Proof.Machine
end

section
/-! PROOFS. The core after its reset (10_state.md R49, 70_reset_and_hazards.md R301, R302). -/

namespace Sys2Proof.Machine

/-- Reset is itself a state that the core's reset leaves. -/
theorem State.resetCore_reset : State.reset.resetCore = State.reset := rfl

theorem State.resetCore_phase (s : State) : s.resetCore.phase = .fresh := rfl

/-- No operation of the live phase is admitted in the fresh phase (43_device.md R210). -/
theorem exec_liveIo_of_fresh {i : Instr} {s : State} (hi : isLiveIo i = true) (hp : s.phase = .fresh) :
    exec i s = .refused .notInitialised := by
  obtain ⟨t, e⟩ := exec_liveIo hi s
  rw [e, State.whenLive_fresh hp]

/-- INIT with the lock free runs to its end, and returns (43_device.md R213). -/
theorem exec_init_returns {s : State} (hp : s.phase = .fresh) (hl : s.lock = .free) :
    ∃ t, exec .init s = .next t ∧ t.result ≠ none := by
  obtain ⟨t, -, he, -, ⟨⟨b, hr⟩, -⟩ | ⟨_, last, -, -, -, hr, -⟩⟩ := initSucceedsOrLeavesTheDeviceFresh s hp hl
  · exact ⟨t, he, by simp [hr]⟩
  · exact ⟨t, he, by simp [hr]⟩

/-- Settles O49: reset is a state after the core's reset, so both refuse what the fresh phase refuses. -/
theorem resetLeavesTheCoreFresh : Obligations.ResetLeavesTheCoreFresh := by
  have hrefused (s : State) (i : Instr) (hi : isLiveIo i = true) : exec i s.resetCore = .refused .notInitialised :=
    exec_liveIo_of_fresh hi s.resetCore_phase
  refine ⟨⟨rfl, rfl, rfl, rfl, rfl, rfl, rfl, rfl, ?_⟩, fun s => ⟨rfl, rfl, rfl, rfl, rfl, rfl, rfl, rfl,
    fun _ => rfl, rfl, hrefused s, exec_init_returns s.resetCore_phase rfl⟩⟩
  rw [← State.resetCore_reset]
  exact hrefused State.reset

end Sys2Proof.Machine
end

section
/-! PROOFS. A flag that the Peripheral sets between the read and the write of a read-modify-write of Flag
(70_reset_and_hazards.md R305): the write puts back what was read, so the flag is lost. -/

namespace Sys2Proof.Machine

/-- A bit that is clear stays clear where bits are only taken out. -/
theorem getLsbD_and_of_clear {f : Byte} {k : Nat} (h : f.getLsbD k = false) (m : Byte) :
    (f &&& m).getLsbD k = false := by
  rw [BitVec.getLsbD_and, h, Bool.false_and]

/-- A pass raises no event for a named flag that is clear in the byte it reads (60_exceptions.md R255). -/
theorem not_mem_eventsOf_of_clear {f : Byte} {flag : Nat × Event}
    (hflag : flag ∈ [(1, Event.clockUnreliable), (3, .alarmFired), (4, .periodicTick), (5, .updateTick)])
    (h : f.getLsbD flag.1 = false) :
    flag.2 ∉ eventsOf (f.getLsbD 1) (f.getLsbD 4) (f.getLsbD 3) (f.getLsbD 5) := by
  simp only [List.mem_cons, List.not_mem_nil, or_false] at hflag
  rcases hflag with rfl | rfl | rfl | rfl
  all_goals
    rw [h]
    simp [eventsOf]

/-! ## Flag at the write of a read-modify-write -/

section readModifyWrite

variable {s : State}

/-- What is written back is made of what was read, whatever the other agents stored in between. -/
theorem State.modify_x_same {a : Addr} {g : Byte → Byte} (h : s.allSucceed 2) :
    (s.modify a g).x a = g (s.interleave.x a) := by
  have hread := State.performs_memRead a (h 0 (by omega))
  rw [State.modify, State.memWrite_x, writtenByte_one, hread.makes.next_ok h]
  exact if_pos ⟨rfl, rfl⟩

/-- A Control write that nobody steps before leaves Flag. -/
theorem State.writeControlIf_x_flag {c : Prop} [Decidable c] {w : Byte} (hs : (s.choiceAt 0).steps = []) :
    (s.writeControlIf c w).x regFlag = s.x regFlag := by
  have hquiet : s.quiet regFlag 1 := .inr fun k hk => by rwa [Nat.lt_one_iff.mp hk]
  unfold State.writeControlIf
  split
  · rw [State.writeControl_x]
    exact State.memWrite_x_of_quiet _ hquiet (TxInfo.misses_of_ne _ (by decide))
  · rfl

theorem State.alarmEnabled_x_flag {e : Bool} (h : s.allSucceed 2) (hs : (s.choiceAt 2).steps = []) :
    (s.alarmEnabled e).x regFlag = bclr (s.interleave.x regFlag) maskAF := by
  rw [State.alarmEnabled, State.writeControlIf_x_flag, State.modify_x_same h]
  rwa [(State.performs_modify h).makes.choiceAt]

variable (a : AlarmSpec)

/-- SETALARM's step 5 leaves Flag as it read it but for AF. -/
theorem State.makes_alarmProgrammed (h : s.allSucceed 6) : ∃ flag,
    State.Makes (programTrace a (s.x regExtension) flag) s (s.alarmProgrammed a)
      ∧ (s.alarmProgrammed a).x regFlag = bclr flag maskAF := by
  have hstored := (State.performs_alarmStored a (State.allSucceed_mono h (by omega))).makes
  have hrest : (s.alarmStored a).allSucceed 2 := hstored.allSucceed h
  have hflag := (State.performs_modify (a := regFlag) (g := (bclr · maskAF)) hrest).makes
  exact ⟨_, hstored.trans hflag, State.modify_x_same hrest⟩

/-- So does the whole of SETALARM, where nobody steps before the Control write of step 6. -/
theorem State.makes_alarmSet (h : s.allSucceed 8)
    (hs : (s.choiceAt (if btst s.cache maskAIE = true then 7 else 6)).steps = []) : ∃ ext flag,
    State.Makes (alarmTrace a s.cache ext flag) s (s.alarmSet a) ∧ (s.alarmSet a).x regFlag = bclr flag maskAF := by
  obtain ⟨flag, hprogram, hflag⟩ := State.makes_alarmProgrammed a
    (State.allSucceed_mono (State.alarmDisabled_allSucceed h) (by omega))
  have hbefore := (State.performs_alarmDisabled h).makes.trans hprogram
  refine ⟨_, flag,
    hbefore.trans (State.performs_writeControlIf fun _ => State.alarmProgrammed_control a h).makes,
    (State.writeControlIf_x_flag ?_).trans hflag⟩
  rw [hbefore.choiceAt, ← hs]
  split
  · rfl
  · rfl

end readModifyWrite

/-- SETALARM reads Flag once (42_alarm.md R185). -/
theorem alarmTrace_flagReads (a : AlarmSpec) (cache ext flag : Byte) :
    (alarmTrace a cache ext flag).filter (·.info == txRead regFlag 1) = [⟨txRead regFlag 1, [flag], true⟩] := by
  unfold alarmTrace
  split <;> split <;> rfl

/-! ## The three read-modify-writes -/

/-- A pass whose transactions succeed, by the Flag byte `f` it reads (60_exceptions.md R255). -/
theorem step_drain_of_ok {s : State} {rest : List Input} (hi : s.inputs = .turn .drain :: rest)
    (hp : s.pstate = .handling) (hd : s.destroyed = false) (hl : s.lock = .free) (h : s.allSucceed 2) {f : Byte}
    (hf : (s.envSteps (s.stepsBefore 1)).x regFlag = f) : ∃ t, step s = .next t ∧ t.x regFlag = f &&& ~~~0x38#8
      ∧ t.events = s.events ++ eventsOf (f.getLsbD 1) (f.getLsbD 4) (f.getLsbD 3) (f.getLsbD 5) := by
  subst hf
  have hstep := passDrainsTheFlagRegister s rest hi hp hd hl
  rw [h 0 (by omega), h 1 (by omega)] at hstep
  exact ⟨_, hstep, (Memory.get_set _ _ _ _).trans (if_pos rfl), rfl⟩

/-- Settles O41: each of the three writes Flag back as it read it, with bits taken out only. -/
theorem flagSetInsideAReadModifyWriteIsLost : Obligations.FlagSetInsideAReadModifyWriteIsLost := by
  refine ⟨fun s rest flag hflag hi hp hd hl h hclear _ => ?_, fun s e k _ hp hi hl h hs hclear _ => ?_,
    fun s a hp hi hl hv h hs => ?_⟩
  · obtain ⟨t, hstep, hx, hevents⟩ := step_drain_of_ok hi hp hd hl h rfl
    refine ⟨t, _, hstep, ?_, hevents, not_mem_eventsOf_of_clear hflag hclear⟩
    exact hx ▸ getLsbD_and_of_clear hclear _
  · have h2 : (s.setLock .foreground).allSucceed 2 := State.allSucceed_mono h (by omega)
    have hc : bput s.cache maskAIE e ≠ s.cache → (s.choiceAt 2).outcome = .ok := fun _ => h 2 (by omega)
    have hx := State.alarmEnabled_x_flag (e := e) h2 hs
    rw [State.interleave_eq_waited, State.waited_setLock_x] at hx
    refine ⟨_, exec_alarmEn_of_ok hp hi hl h2 hc, ?_, (State.performs_alarmEnabled h2 hc).makes.events⟩
    exact (congrArg (·.getLsbD k) hx).trans (getLsbD_and_of_clear hclear _)
  · rw [← btst_maskAIE] at hs
    obtain ⟨ext, flag, hmakes, hx⟩ := State.makes_alarmSet (s := s.setLock .foreground) a h hs
    refine ⟨_, _, flag, exec_setAlarm_of_ok hp hi hl hv h, hmakes.trace, alarmTrace_flagReads .., fun k _ hclear => ?_,
      hmakes.events⟩
    exact (congrArg (·.getLsbD k) hx).trans (getLsbD_and_of_clear hclear _)

end Sys2Proof.Machine
end

section
/-! PROOFS. How many transactions each operation, a pass and the interrupt's entry make where none fails
(70_reset_and_hazards.md R321). -/

namespace Sys2Proof.Machine

/-- The transactions an operation is known to add are the ones it is counted by. -/
theorem exec_trace_length {i : Instr} {s t u : State} {new : List Transaction} (hu : exec i s = .next u)
    (hnew : u.trace = s.trace ++ new) (ht : exec i s = .next t) :
    t.trace.length = s.trace.length + new.length := by
  obtain rfl : u = t := Host.Outcome.next.inj (hu.symm.trans ht)
  rw [hnew, List.length_append]

/-- A pure operation makes no transaction (40_timecodec.md R130, 41_statusregs.md R160). -/
theorem exec_pure_trace {i : Instr} {s t : State} (hi : isPure i = true) (h : exec i s = .next t) :
    t.trace = s.trace := by
  cases i with
  | bcd2bin _ | bin2bcd _ | decode _ | encode _ | btst _ _ | bset _ _ | bclr _ _ => cases h; rfl
  | getTime | setTime _ | getAlarm | setAlarm _ | alarmEn _ | init | shutdown => cases hi

/-! ## GETTIME, SETTIME and the alarm operations -/

section live

variable {s t : State} (hp : s.phase = .live) (hl : s.lock = .free)
include hp hl

theorem exec_getTime_trace_length (h : s.allSucceed 1) (ht : exec .getTime s = .next t) :
    t.trace.length = s.trace.length + 1 := by
  obtain ⟨-, hread⟩ := getTimeReadsOneBlock
  have he := hread s hp hl
  rw [h 0 (by omega)] at he
  exact exec_trace_length he rfl ht

theorem exec_setTime_trace_length (h : s.allSucceed 5) {u : CalendarTime} (hv : validSupplied u = true)
    (ht : exec (.setTime u) s = .next t) : t.trace.length = s.trace.length + 5 :=
  exec_trace_length (exec_setTime hp hl hv)
    (State.performs_setTimeBody_of_ok (s := s.setLock .foreground) u h).makes.trace ht

variable (hi : s.params.hasIrq = true)
include hi

theorem exec_getAlarm_trace_length (h : s.allSucceed 2) (ht : exec .getAlarm s = .next t) :
    t.trace.length = s.trace.length + 2 := by
  obtain ⟨-, hread⟩ := getAlarmReportsTheAlarm
  have he := hread s hp hi hl
  rw [h 0 (by omega), h 1 (by omega)] at he
  exact exec_trace_length he rfl ht

theorem exec_setAlarm_trace_length (h : s.allSucceed 8) {a : AlarmSpec} (hv : validAlarm a = true)
    (ht : exec (.setAlarm a) s = .next t) : t.trace.length
      = s.trace.length + 6 + (if s.cache.getLsbD 3 then 1 else 0) + (if a.enabled then 1 else 0) := by
  obtain ⟨flag, hperf, -⟩ := State.performs_alarmSet (s := s.setLock .foreground) a h
  rw [exec_trace_length (exec_setAlarm_of_ok hp hi hl hv h) hperf.makes.trace ht, alarmTrace_length, Nat.add_assoc,
    Nat.add_assoc, Nat.add_assoc]
  rfl

theorem exec_alarmEn_trace_length (h : s.allSucceed 3) {e : Bool} (ht : exec (.alarmEn e) s = .next t) :
    t.trace.length = s.trace.length + (if s.cache.getLsbD 3 = e then 2 else 3) := by
  obtain ⟨u, f, hu, -, -, hmakes⟩ :=
    exec_alarmEn_makes (e := e) hp hi hl (State.allSucceed_mono h (by omega)) fun _ => h 2 (by omega)
  rw [exec_trace_length hu hmakes.trace ht]
  simp only [bput_maskAIE_eq_iff, btst_maskAIE]
  split
  · rfl
  · rfl

end live

/-! ## INIT -/

section init

variable {s : State}

/-- INIT's first four transactions, up to the inspection of the Flag byte found (43_device.md R213). -/
theorem State.initSequence_reaches_inspection (h : s.allSucceed 4) : ∃ new flag u,
    new.length = 4 ∧ State.Makes new s u ∧ s.initSequence = u.inspectFlag flag := by
  have hfirst := State.makes_memWrite s.params.rsv0Addr [s.params.rsv0Val] (inSpace_byte _) (h 0 (by omega))
  have hsecond := hfirst.next_ok (State.allSucceed_mono h (by simp))
  have hreserved := (State.performs_reservedWritten (State.allSucceed_mono h (by omega))).makes
  have hthird := State.reservedWritten_next_ok h
  generalize hbytes : Memory.readBlock s.reservedWritten.interleave.regs regExtension.toNat 3 = bytes
  have hread := hreserved.trans (State.makes_memRead regExtension 3 statusBlock_inSpace hthird)
  have hloaded := hread.setCache (initControl (bytes.getD 2 0))
  have hfourth := hloaded.next_ok h
  have hwrite := State.makes_memWrite regExtension [initExtension (bytes.getD 0 0) s.params.fselDefault]
    (inSpace_byte _) hfourth
  refine ⟨_, bytes.getD 1 0, _, rfl, hloaded.trans hwrite, ?_⟩
  have e : s.initSequence = _ := State.writeThen_of_ok (h 0 (by omega))
  rw [e, hfirst.params]
  refine (State.writeThen_of_ok hsecond).trans ?_
  refine (State.readThen_of_ok (s := s.reservedWritten) hthird).trans ?_
  rw [hbytes, hread.params]
  exact State.writeThen_of_ok hfourth

theorem State.inspectFlag_trace {flag : Byte} (h : s.allSucceed 2) :
    (s.inspectFlag flag).trace = s.trace ++ zeroTrace (btst flag maskAnyFlag = true) := by
  rw [State.inspectFlag_of_ok h]
  exact (State.performs_inspected h).makes.trace

theorem State.forgetCache_trace (s : State) : s.forgetCache.trace = s.trace := by
  unfold State.forgetCache
  split
  · rfl
  · rfl

/-- Zeroing Flag and Control takes two transactions more. -/
theorem State.initBody_trace (h : s.allSucceed 6) :
    ∃ new, s.initBody.trace = s.trace ++ new ∧ (new.length = 4 ∨ new.length = 6) := by
  obtain ⟨load, flag, u, hlength, hmakes, e⟩ :=
    State.initSequence_reaches_inspection (State.allSucceed_mono h (by omega))
  have hrest : u.allSucceed 2 := hmakes.allSucceed (hlength ▸ h)
  refine ⟨load ++ zeroTrace (btst flag maskAnyFlag = true), ?_, ?_⟩
  · rw [State.initBody, State.forgetCache_trace, e, State.inspectFlag_trace hrest, hmakes.trace, List.append_assoc]
  · rw [List.length_append, hlength, zeroTrace]
    split
    · exact .inr rfl
    · exact .inl rfl

theorem exec_init_trace_length {t : State} (hp : s.phase = .fresh) (hl : s.lock = .free) (h : s.allSucceed 6)
    (ht : exec .init s = .next t) :
    t.trace.length = s.trace.length + 4 ∨ t.trace.length = s.trace.length + 6 := by
  obtain ⟨new, hnew, hlength⟩ := State.initBody_trace (s := s.setLock .foreground) h
  rw [exec_trace_length (exec_init hp hl) hnew ht]
  exact hlength.imp (congrArg _) (congrArg _)

end init

/-! ## SHUTDOWN, the pass and the interrupt -/

/-- Without a scheduled task SHUTDOWN makes no transaction (43_device.md R214). -/
theorem exec_shutdown_trace {s t : State} (hp : s.pstate ≠ .handling) (h : exec .shutdown s = .next t) :
    t.trace = s.trace := by
  rw [exec_shutdown (State.whenNotDestroyed_next h).1] at h
  split at h
  · next hl =>
    rw [State.teardown_eq hl, if_neg hp] at h
    cases h
    rfl
  · cases h
    rfl

theorem State.drain_trace_length {s : State} (hp : s.pstate = .handling) (hd : s.destroyed = false)
    (hl : s.lock = .free) (h : s.allSucceed 2) : s.drain.trace.length = s.trace.length + 2 := by
  rcases s.drain_cases with ⟨hn | hn, -⟩ | ⟨-, -, hn, -⟩ | ⟨-, -, -, e⟩
  · exact absurd hp hn
  · simp [hd] at hn
  · exact absurd hl hn
  · have hpass : s.drain.trace = (s.setLock .deferred).drainFlags.trace := by rw [e]; rfl
    rw [hpass, State.drainFlags_of_ok (s := s.setLock .deferred) (h 0 (by omega)) (h 1 (by omega))]
    exact List.length_append

/-- Settles O52: each operation's transactions, counted. -/
theorem transactionCounts : Obligations.TransactionCounts := by
  intro s hl h
  have hfirst {n : Nat} (hn : n ≤ 8) : s.allSucceed n := State.allSucceed_mono h hn
  exact ⟨fun i t => exec_pure_trace,
    fun hp t => exec_getTime_trace_length hp hl (hfirst (by omega)),
    fun hp u t => exec_setTime_trace_length hp hl (hfirst (by omega)),
    fun hp hi t => exec_getAlarm_trace_length hp hl hi (hfirst (by omega)),
    fun hp hi a t => exec_setAlarm_trace_length hp hl hi h,
    fun hp hi e t => exec_alarmEn_trace_length hp hl hi (hfirst (by omega)),
    fun hp t => exec_init_trace_length hp hl (hfirst (by omega)),
    fun hp t => exec_shutdown_trace hp,
    fun hp hd => State.drain_trace_length hp hd hl (hfirst (by omega)),
    by rw [State.takeInterrupt_eq]; rfl⟩

end Sys2Proof.Machine
end
